-- ==== Sys2Proof/Word.lean ====
section
/-! DEFINITION. The word types of the block (00_scope.md R6, R7): every quantity of the spec is an unsigned
bit vector, and bit 0 is the least significant bit. -/

namespace Sys2Proof

/-- A 32-bit interface word, command word or host memory address (R6: `CMD_W`, `ARG_W`, `PTR_W`). -/
abbrev Word := BitVec 32

/-- A data byte, an address byte or the read counter (R6). -/
abbrev Byte := BitVec 8

/-- A BusAddress, 0 to 127 (R6: `ADDR_W` = 7; R63: no value is reserved). -/
abbrev BusAddress := BitVec 7

end Sys2Proof
end

