-- ==== Sys2Proof/Syntax.lean ====
section
/-! DEFINITION. The commands of the block: one constructor per row of spec/opcode_table.json
(30_encoding.md R95), with the operands the command word itself carries (R92), and the five formats (R91).
The operands that a command takes from `IF.ARG0` and `IF.ARG1` are state, not part of the word. -/

namespace Sys2Proof

/-- The thirteen commands (30_encoding.md R95). A field has exactly the width of its place in the word (R92), so
no value of `Instr` is outside the encoding. -/
inductive Instr where
  /-- `BM_INIT hz, ns` (41_bus_address.md R141): operands in ARG0, ARG1. -/
  | bmInit
  /-- `SCAN` (R145). -/
  | scan
  /-- `START addr, read_count` (R142). -/
  | start (addr : BusAddress) (readCount : Byte)
  /-- `RESTART addr, read_count` (R143). -/
  | restart (addr : BusAddress) (readCount : Byte)
  /-- `WRITE byte` (42_bus_data.md R170). -/
  | write (byte : Byte)
  /-- `WRITE_BYTES ptr, len` (R171): operands in ARG0, ARG1. -/
  | writeBytes
  /-- `READ` (R172). -/
  | read
  /-- `READ_LAST` (R173). -/
  | readLast
  /-- `STOP` (41_bus_address.md R144). -/
  | stop
  /-- `WRITE_ASYNC ptr, len` (43_bus_pump.md R190): operands in ARG0, ARG1. -/
  | writeAsync
  /-- `TB_INIT` (40_timebase.md R120). -/
  | tbInit
  /-- `TB_NOW` (R121). -/
  | tbNow
  /-- `TB_RESTART` (R122). -/
  | tbRestart
deriving DecidableEq, Repr

/-- The five formats of a command word (30_encoding.md R91). -/
inductive Format where
  | c0 | cb | ca | cm | ci
deriving DecidableEq, Repr

/-- Why a command word is illegal (30_encoding.md R97). -/
inductive DecodeError where
  /-- The opcode is not one of the thirteen (R97: `0x00`, `0x0B` to `0x0F`, `0x13` to `0xFF`). -/
  | unknownOpcode
  /-- A bit that the format shows as 0 is non-zero (R91, R97). -/
  | reservedBits
deriving DecidableEq, Repr

end Sys2Proof
end

