-- ==== Sys2Proof/WellFormed.lean ====
section
/-! DEFINITION. Which 32-bit words are command words at all (30_encoding.md R91, R95, R97), said from the format
table and not through the decoder: the opcode is assigned, and every bit its format shows as 0 is 0. The fields of
`Instr` have exactly their widths, so there is nothing left to check on an `Instr` itself. -/

namespace Sys2Proof

/-- The format of an opcode, `none` for a reserved one (30_encoding.md R95). -/
def formatOf (opcode : Byte) : Option Format :=
  if opcode = 0x01#8 then some .ci
  else if opcode = 0x02#8 ∨ opcode = 0x07#8 ∨ opcode = 0x08#8 ∨ opcode = 0x09#8 then some .c0
  else if opcode = 0x03#8 ∨ opcode = 0x04#8 then some .ca
  else if opcode = 0x05#8 then some .cb
  else if opcode = 0x06#8 ∨ opcode = 0x0A#8 then some .cm
  else if opcode = 0x10#8 ∨ opcode = 0x11#8 ∨ opcode = 0x12#8 then some .c0
  else none

/-- The bits of a word that a format shows as 0 (30_encoding.md R91). -/
def reservedBits : Format → Word
  | .ca => 0x00FF8000#32
  | .cb => 0x00FFFF00#32
  | .c0 => 0x00FFFFFF#32
  | .cm => 0x00FFFFFF#32
  | .ci => 0x00FFFFFF#32

/-- A legal command word (30_encoding.md R97): its opcode is assigned and its reserved bits are 0. -/
def wellFormedWord (w : Word) : Bool :=
  match formatOf (w.extractLsb' 24 8) with
  | none => false
  | some f => w &&& reservedBits f == 0#32

end Sys2Proof
end

