-- ==== Sys2Proof/Decode.lean ====
section
/-! DEFINITION. The decoder of command words, total on 32-bit words (30_encoding.md R98), rejecting by name, and
after it the encoder, both written from R90 to R92 and R95; the rows of the opcode table as data. A command word
is one 32-bit value (R90): how the host's bytes map onto it is the platform's and does not reach the block (R72). -/

namespace Sys2Proof

/-- The opcode field, bits 31:24 (30_encoding.md R91). -/
def opcodeField (w : Word) : Byte := w.extractLsb' 24 8

/-- The `addr` field of format CA, bits 14:8 (R92). -/
def addrField (w : Word) : BusAddress := w.extractLsb' 8 7

/-- The `read_count` field of format CA and the `byte` field of format CB, bits 7:0 (R92). -/
def lowField (w : Word) : Byte := w.extractLsb' 0 8

/-- Formats C0, CM and CI: bits 23:0 must be 0 (R91). -/
def decodeBare (w : Word) (i : Instr) : Except DecodeError Instr :=
  if w.extractLsb' 0 24 = 0#24 then .ok i else .error .reservedBits

/-- Format CA: bits 23:15 must be 0 (R91). -/
def decodeAddressed (w : Word) (mk : BusAddress → Byte → Instr) : Except DecodeError Instr :=
  if w.extractLsb' 15 9 = 0#9 then .ok (mk (addrField w) (lowField w)) else .error .reservedBits

/-- Format CB: bits 23:8 must be 0 (R91). -/
def decodeByte (w : Word) (mk : Byte → Instr) : Except DecodeError Instr :=
  if w.extractLsb' 8 16 = 0#16 then .ok (mk (lowField w)) else .error .reservedBits

/-- The decoder (30_encoding.md R95, R97, R98). -/
def decode (w : Word) : Except DecodeError Instr :=
  if opcodeField w = 0x01#8 then decodeBare w .bmInit
  else if opcodeField w = 0x02#8 then decodeBare w .scan
  else if opcodeField w = 0x03#8 then decodeAddressed w .start
  else if opcodeField w = 0x04#8 then decodeAddressed w .restart
  else if opcodeField w = 0x05#8 then decodeByte w .write
  else if opcodeField w = 0x06#8 then decodeBare w .writeBytes
  else if opcodeField w = 0x07#8 then decodeBare w .read
  else if opcodeField w = 0x08#8 then decodeBare w .readLast
  else if opcodeField w = 0x09#8 then decodeBare w .stop
  else if opcodeField w = 0x0A#8 then decodeBare w .writeAsync
  else if opcodeField w = 0x10#8 then decodeBare w .tbInit
  else if opcodeField w = 0x11#8 then decodeBare w .tbNow
  else if opcodeField w = 0x12#8 then decodeBare w .tbRestart
  else .error .unknownOpcode

/-- The word of a command without operands in it (formats C0, CM, CI). -/
def encodeBare (opcode : Byte) : Word := opcode ++ (0#24 : BitVec 24)

/-- The word of format CA: `opcode, 0, addr, read_count` from the top (R91). -/
def encodeAddressed (opcode : Byte) (addr : BusAddress) (readCount : Byte) : Word :=
  opcode ++ (0#9 : BitVec 9) ++ addr ++ readCount

/-- The word of format CB: `opcode, 0, byte` from the top (R91). -/
def encodeByte (opcode : Byte) (byte : Byte) : Word := opcode ++ (0#16 : BitVec 16) ++ byte

/-- The encoder (30_encoding.md R91, R95). -/
def encode : Instr → Word
  | .bmInit => encodeBare 0x01#8
  | .scan => encodeBare 0x02#8
  | .start addr readCount => encodeAddressed 0x03#8 addr readCount
  | .restart addr readCount => encodeAddressed 0x04#8 addr readCount
  | .write byte => encodeByte 0x05#8 byte
  | .writeBytes => encodeBare 0x06#8
  | .read => encodeBare 0x07#8
  | .readLast => encodeBare 0x08#8
  | .stop => encodeBare 0x09#8
  | .writeAsync => encodeBare 0x0A#8
  | .tbInit => encodeBare 0x10#8
  | .tbNow => encodeBare 0x11#8
  | .tbRestart => encodeBare 0x12#8

/-- One row of spec/opcode_table.json: its mask and match (30_encoding.md R98). -/
structure OpcodeRow where
  mnemonic : String
  mask : Word
  pattern : Word
deriving DecidableEq, Repr

/-- Does a word belong to a row: `w and mask = match` (R98)? -/
def OpcodeRow.covers (r : OpcodeRow) (w : Word) : Bool := w &&& r.mask == r.pattern

/-- The thirteen rows of spec/opcode_table.json. -/
def opcodeTable : List OpcodeRow :=
  [⟨"BM_INIT", 0xFFFFFFFF#32, 0x01000000#32⟩,
   ⟨"SCAN", 0xFFFFFFFF#32, 0x02000000#32⟩,
   ⟨"START", 0xFFFF8000#32, 0x03000000#32⟩,
   ⟨"RESTART", 0xFFFF8000#32, 0x04000000#32⟩,
   ⟨"WRITE", 0xFFFFFF00#32, 0x05000000#32⟩,
   ⟨"WRITE_BYTES", 0xFFFFFFFF#32, 0x06000000#32⟩,
   ⟨"READ", 0xFFFFFFFF#32, 0x07000000#32⟩,
   ⟨"READ_LAST", 0xFFFFFFFF#32, 0x08000000#32⟩,
   ⟨"STOP", 0xFFFFFFFF#32, 0x09000000#32⟩,
   ⟨"WRITE_ASYNC", 0xFFFFFFFF#32, 0x0A000000#32⟩,
   ⟨"TB_INIT", 0xFFFFFFFF#32, 0x10000000#32⟩,
   ⟨"TB_NOW", 0xFFFFFFFF#32, 0x11000000#32⟩,
   ⟨"TB_RESTART", 0xFFFFFFFF#32, 0x12000000#32⟩]

/-- The mnemonic of a command in spec/opcode_table.json (30_encoding.md R95). -/
def mnemonicOf : Instr → String
  | .bmInit => "BM_INIT"
  | .scan => "SCAN"
  | .start _ _ => "START"
  | .restart _ _ => "RESTART"
  | .write _ => "WRITE"
  | .writeBytes => "WRITE_BYTES"
  | .read => "READ"
  | .readLast => "READ_LAST"
  | .stop => "STOP"
  | .writeAsync => "WRITE_ASYNC"
  | .tbInit => "TB_INIT"
  | .tbNow => "TB_NOW"
  | .tbRestart => "TB_RESTART"

/-- The command word that the host's question about a table row denotes: bits `nbits - 1` to 0 of `w`, every bit
above them 0. `none` when more bits are set than a command word has. -/
def tableWord (nbits w : Nat) : Option Word :=
  let v := w % 2 ^ nbits
  if v < 2 ^ 32 then some (BitVec.ofNat 32 v) else none

/-- What the decoder reads from a word numbered as spec/opcode_table.json numbers it. -/
def decodeTableWord (nbits w : Nat) : Option Instr :=
  match tableWord nbits w with
  | none => none
  | some cmd =>
    match decode cmd with
    | .ok i => some i
    | .error _ => none

end Sys2Proof
end

