-- ==== Sys2Proof/Config.lean ====
section
/-! DEFINITION. What an implementation fixes and the spec leaves OPEN (92_eei_decisions.md D30, D41), and the
source of free values (00_scope.md R10 `draw`). Every constant here is opaque and has no body: no proof can learn
its value, so a statement about it holds for every value. -/

namespace Sys2Proof.Config

/-- One less than `F_CORE_HZ` (D30: a positive integer). -/
opaque coreHzLessOne : Nat

/-- `F_CORE_HZ`, the core clock frequency: OPEN (D30), only known to be positive. -/
def coreHz : Nat := coreHzLessOne + 1

/-- One less than `TB_DIV` (D30: a positive integer). -/
opaque tbDivLessOne : Nat

/-- `TB_DIV`, the timebase's fixed clock divider: OPEN (D30), only known to be positive. -/
def tbDiv : Nat := tbDivLessOne + 1

/-- One less than `BAUD_W` (D30: a positive integer). -/
opaque baudWLessOne : Nat

/-- `BAUD_W`, the width of the bus clock divisor: OPEN (D30), only known to be positive. -/
def baudW : Nat := baudWLessOne + 1

/-- `BaudOf(f_core, f_target, t_rise)`: OPEN, an uninterpreted total function (R6, D30). -/
opaque baudOf : Nat → Nat → Nat → BitVec baudW

/-- Does the implementation round `TB.PERIOD` up? Not in the source (D41). -/
opaque periodRoundsUp : Bool

/-- Does the timer want its period minus one? Not in the source (D41). -/
opaque periodMinusOne : Bool

/-- The free values: the bit of the n-th draw of a run (R10: "chosen afresh each time, under no law").
Used for `BM.RXACK` after a lost address phase (D39) and for `TB.PEND` at `TB_INIT` (D26). -/
opaque freeBit : Nat → Bool

end Sys2Proof.Config
end

