-- ==== Sys2Proof/Machine/State.lean ====
section
/-! DEFINITION. The state of the machine: the bus master `BM`, the timebase `TB`, the interrupt control `IC`, the
host interface `IF` (10_state.md R20 to R48), host byte memory (20_memory.md R61), the observation `BUS.TRACE`
(R64), the command in progress with its transient operands (30_encoding.md R104), and the arguments of the run.
Every field is plain data. The conversions of these enumerations to bits stand in Flags and Operands. -/

namespace Sys2Proof.Machine

/-! ## Enumerations of the bus master -/

/-- `BM.PHASE` (10_state.md R22). -/
inductive Phase where
  | idle | address | dataWrite | dataRead
deriving DecidableEq, Repr

/-- TransferDirection, `BM.DIR` (R23). -/
inductive Direction where
  | write | read
deriving DecidableEq, Repr

/-- An acknowledge bit, `BM.RXACK` and `BM.ACKACT` (R27, R31). -/
inductive Ack where
  | ack | nak
deriving DecidableEq, Repr

/-- `BM.INFLIGHT` (R32): what the controller has started and the environment has not completed. -/
inductive Inflight where
  | none | addr | data | recv
deriving DecidableEq, Repr

/-- `BM.TXMODE` (R33): the transmit strategy of the current transaction. -/
inductive TxMode where
  | none | polling | pump
deriving DecidableEq, Repr

/-- An event of the bus (20_memory.md R64). -/
inductive BusEvent where
  /-- `S`, a start condition. -/
  | start
  /-- `P`, a stop condition. -/
  | stop
  /-- `Tx(b)`, the master transmits a byte. -/
  | tx (b : Byte)
  /-- `SlaveAck` or `SlaveNak`, the slave's acknowledge bit. -/
  | slave (a : Ack)
  /-- `Rx(b)`, the master receives a byte. -/
  | rx (b : Byte)
  /-- `MasterAck` or `MasterNak`, the master's acknowledge bit. -/
  | master (a : Ack)
  /-- `ArbLost`. -/
  | arbLost
  /-- `BusErr`. -/
  | busErr
deriving DecidableEq, Repr

/-- An answer of the environment to an address byte (20_memory.md R65). -/
inductive AddrAnswer where
  | ack | nak | arbLost | busErr | arbLostAndBusErr
deriving DecidableEq, Repr

/-! ## The command in progress

Each numbered step of a command's rule is one point at which the engine can stand (00_scope.md R9). The operands
and the loop index are the transient per-command state of 10_state.md R53. -/

/-- The next numbered step of `START` and `RESTART` (41_bus_address.md R142). -/
inductive AddrStep where
  | issue | wait | form
deriving DecidableEq, Repr

/-- The next numbered step of `SCAN` (R145). -/
inductive ScanStep where
  | init | probe | wait | test | next
deriving DecidableEq, Repr

/-- The next numbered step of `WRITE` (42_bus_data.md R170). -/
inductive WriteStep where
  | mode | wait | send | waitAck | form
deriving DecidableEq, Repr

/-- The next numbered step of `WRITE_BYTES` (R171). -/
inductive WriteBytesStep where
  | init | test | mode | wait | send | waitAck | check | next
deriving DecidableEq, Repr

/-- The next numbered step of `READ` (R172); `v` is the byte taken in step 3. -/
inductive ReadStep where
  | wait | count | take | ack (v : Byte) | form (v : Byte)
deriving DecidableEq, Repr

/-- The next numbered step of `READ_LAST` (R173); `v` is the byte taken in step 4. -/
inductive ReadLastStep where
  | zero | wait | count | take | nak (v : Byte) | form (v : Byte)
deriving DecidableEq, Repr

/-- A command in progress: its transient operands, taken when it was issued (20_memory.md R79), and its next numbered
step. A command whose rule has one atomic step is in progress from its issue to that step. -/
inductive Command where
  | bmInit (clockTargetHz riseTimeNs : Word)
  | stop
  | writeAsync (ptr len : Word)
  | tbInit
  | tbNow
  | tbRestart
  | start (addr : BusAddress) (readCount : Byte) (at_ : AddrStep)
  | restart (addr : BusAddress) (readCount : Byte) (at_ : AddrStep)
  | scan (a : BusAddress) (at_ : ScanStep)
  | write (byte : Byte) (at_ : WriteStep)
  | writeBytes (ptr len i : Word) (at_ : WriteBytesStep)
  | read (at_ : ReadStep)
  | readLast (at_ : ReadLastStep)
deriving DecidableEq, Repr

/-! ## Moves: the steps of the five agents (00_scope.md R5, 20_memory.md R80) -/

/-- What the host can do at its interface (10_state.md R46, R47) and to its own memory (20_memory.md R61, R79). -/
inductive HostAction where
  /-- One 32-bit write to `IF.CMD`. -/
  | command (w : Word)
  /-- A write to `IF.CMD` of fewer than its 32 bits: not a command (20_memory.md R73). -/
  | partialCommand
  | writeArg0 (v : Word)
  | writeArg1 (v : Word)
  | readArg0
  | readArg1
  | readResult
  | readStatus
  /-- The host writes one byte of its own memory. -/
  | storeByte (a : Word) (b : Byte)
deriving DecidableEq, Repr

/-- A step of the environment (20_memory.md R67, R68, R69). -/
inductive EnvEvent where
  | addr (x : AddrAnswer)
  | data (a : Ack)
  | recv (b : Byte)
deriving DecidableEq, Repr

/-- A step of one agent. -/
inductive Move where
  | host (a : HostAction)
  /-- The next numbered step of the command in progress. -/
  | engine
  | env (e : EnvEvent)
  /-- `TB_TICK` (40_timebase.md R123). -/
  | tick
  /-- `TB_ISR` (R124). -/
  | timerIrq
  /-- `PUMP_ISR` (43_bus_pump.md R191). -/
  | pumpIrq
  /-- A power-on reset (70_reset_and_hazards.md R235, R236). -/
  | powerOn
deriving DecidableEq, Repr

/-! ## The state -/

/-- `BM`, the bus master (10_state.md R20 to R36). -/
structure BusMaster where
  /-- `BM.EN` (R20). -/
  en : Bool
  /-- `BM.BAUD` (R21). -/
  baud : BitVec Config.baudW
  /-- `BM.PHASE` (R22). -/
  phase : Phase
  /-- `BM.DIR` (R23). -/
  dir : Direction
  /-- `BM.RDCNT` (R24). -/
  rdcnt : Byte
  /-- `BM.WIF` (R25). -/
  wif : Bool
  /-- `BM.RIF` (R26). -/
  rif : Bool
  /-- `BM.RXACK` (R27). -/
  rxack : Ack
  /-- `BM.ARBLOST` (R28). -/
  arblost : Bool
  /-- `BM.BUSERR` (R29). -/
  buserr : Bool
  /-- `BM.DATA` (R30). -/
  data : Byte
  /-- `BM.ACKACT` (R31). -/
  ackact : Ack
  /-- `BM.INFLIGHT` (R32). -/
  inflight : Inflight
  /-- `BM.TXMODE` (R33). -/
  txmode : TxMode
  /-- `BM.CUR` (R34). -/
  cur : Word
  /-- `BM.END` (R34; `end` is a word of Lean). -/
  fin : Word
  /-- `BM.PACT` (R35). -/
  pact : Bool
  /-- `BM.PDONE` (R35). -/
  pdone : Bool
  /-- `BM.WIE` (R36). -/
  wie : Bool
deriving DecidableEq, Repr

/-- `TB`, the timebase (10_state.md R40 to R44). -/
structure Timebase where
  /-- `TB.COUNT` (R40). -/
  count : Word
  /-- `TB.RUN` (R41). -/
  run : Bool
  /-- `TB.PEND` (R42). -/
  pend : Bool
  /-- `TB.IE` (R43). -/
  ie : Bool
  /-- `TB.PERIOD` (R44: its width is unspecified, log 13). -/
  period : Nat
deriving DecidableEq, Repr

/-- `IC`, the interrupt control (10_state.md R45). -/
structure InterruptControl where
  /-- `IC.GIE` (R45). -/
  gie : Bool
deriving DecidableEq, Repr

/-- `IF`, the host interface (10_state.md R46, R48). `IF.CMD` and `IF.STATUS` have no storage of their own. -/
structure HostInterface where
  /-- `IF.ARG0` (R46). -/
  arg0 : Word
  /-- `IF.ARG1` (R46). -/
  arg1 : Word
  /-- `IF.RESULT` (R46, 30_encoding.md R96). -/
  result : Word
  /-- `IF.CMDFAULT` (R48). -/
  cmdfault : Bool
deriving DecidableEq, Repr

/-- Host byte memory (20_memory.md R61) as its cells that differ from what an unlisted address reads as, addresses
strictly rising; `Memory.wf` in Ops says so. -/
abbrev Memory := List Host.Cell

/-- The whole state. `schedule`, `draws` and `readout` are the model's own (log 1, 7). -/
structure State where
  bm : BusMaster
  tb : Timebase
  ic : InterruptControl
  ifc : HostInterface
  /-- Host byte memory (20_memory.md R61). -/
  mem : Memory
  /-- `BUS.TRACE`, oldest event first (20_memory.md R64, 10_state.md R49). -/
  trace : List BusEvent
  /-- The command in progress, if any (30_encoding.md R104). -/
  cmd : Option Command
  /-- The arguments of the run: the moves still to be taken, oldest first (log 1). -/
  schedule : List Move
  /-- How many free values the run has drawn (00_scope.md R10). -/
  draws : Nat
  /-- The word that the host's last read of an interface register returned. -/
  readout : Word
deriving DecidableEq, Repr

/-- What stops the machine. A bus primitive states what it requires (20_memory.md R69, R70), and no rule says what it
does otherwise. No state that a run reaches raises one of these. -/
inductive Fault where
  /-- Raised by `busSendData` when `BM.PHASE = DataWrite` and `BM.WIF = 1` does not hold (R69). Safe: the machine
  stops where the spec gives no effect. -/
  | sendRequirement
  /-- Raised by `busAckAndReceive` and `busNak` when `BM.PHASE = DataRead` and `BM.RIF = 1` does not hold (R70).
  Safe, as above. -/
  | ackRequirement
deriving DecidableEq, Repr

/-- The spec's `refuse(reason)` (00_scope.md R10): it gives the command no meaning in this state, and no claim is made
about the run. Every one is safe: the model stops where the chip goes on in a way the spec does not say. -/
inductive Refusal where
  /-- Raised by `exec` alone, for a command without a meaning in this model. Safe. -/
  | notModelled (mnemonic : String)
  /-- Raised by the admission of every command while another is in progress (30_encoding.md R104). Safe. -/
  | reentrant
  /-- Raised by the admission of every bus command while `BM.PACT = 1` (43_bus_pump.md R193). Safe. -/
  | pumpActive
  /-- Raised by the admission of every bus command but BM_INIT while `BM.EN = 0` (41_bus_address.md R140). Safe. -/
  | notEnabled
  /-- Raised by the admission of a bus command in a phase whose cell is `refuse` (R140). Safe. -/
  | wrongPhase
  /-- Raised by the admission of STOP, START, RESTART and SCAN while `ReadOpen(BM)` (R140). Safe. -/
  | readOpen
  /-- Raised by WRITE and WRITE_BYTES after the pump, and by WRITE_ASYNC after polling, in one transaction
  (R140, 43_bus_pump.md R193). Safe. -/
  | mixedStrategies
  /-- Raised by WRITE_BYTES and WRITE_ASYNC when `ptr + len > 2^32` (20_memory.md R61). Safe. -/
  | rangeWraps
  /-- Raised by BM_INIT when `clock_target_hz = 0` (41_bus_address.md R141). Safe. -/
  | zeroTargetClock
  /-- Raised by TB_NOW while `TB.RUN = 0` (40_timebase.md R121). Safe. -/
  | timebaseNotInitialised
  /-- Raised by the environment's move when the bus is lost or a bus error occurs inside a transaction and outside an
  address phase (20_memory.md R65, D33). Safe. -/
  | busFailureOutsideAddressPhase
  /-- Raised by a host access other than a command or a read of `IF.STATUS` while a command is in progress: the host
  is blocked (10_state.md R46). Safe. -/
  | hostBlocked
deriving DecidableEq, Repr

/-- The state right after reset (10_state.md R55). The seven fields R55 leaves unspecified (`baud`, `phase`, `dir`,
`rxack`, `data`, `count`, `period`) have the value 0 of their encodings: DESIGN CHOICE, unsafe, log 6. Nothing is
scheduled: no program and no host action is invented (log 5). -/
def State.reset : State where
  bm :=
    { en := false, baud := 0, phase := .idle, dir := .write, rdcnt := 0, wif := false, rif := false,
      rxack := .ack, arblost := false, buserr := false, data := 0, ackact := .ack, inflight := .none,
      txmode := .none, cur := 0, fin := 0, pact := false, pdone := false, wie := false }
  tb := { count := 0, run := false, pend := false, ie := false, period := 0 }
  ic := { gie := false }
  ifc := { arg0 := 0, arg1 := 0, result := 0, cmdfault := false }
  mem := []
  trace := []
  cmd := none
  schedule := []
  draws := 0
  readout := 0

end Sys2Proof.Machine
end

