-- ==== Sys2Proof/Machine/Flags.lean ====
section
/-! DEFINITION. The conditions that commands wait on and agents are enabled by, the derived predicates `Owns` and
`ReadOpen` (10_state.md R38), and the word `IF.STATUS` (R47). -/

namespace Sys2Proof.Machine

/-- `Owns(BM)` (10_state.md R38): this master has put a start condition and an address byte on the bus and has
neither lost the bus nor stopped. -/
def BusMaster.owns (b : BusMaster) : Bool :=
  b.phase != .idle && !b.arblost && !b.buserr && b.inflight != .addr

/-- `ReadOpen(BM)` (10_state.md R38): the NAK that ends a read has not been sent. -/
def BusMaster.readOpen (b : BusMaster) : Bool :=
  b.phase == .dataRead && (b.rif || b.inflight == .recv)

/-- What ends the wait of an address phase: `BM.WIF = 1 or BM.RIF = 1` (41_bus_address.md R142 step 2). -/
def BusMaster.addressDone (b : BusMaster) : Bool := b.wif || b.rif

/-- The slave acknowledged and no arbitration loss or bus error occurred (41_bus_address.md R142 step 3). -/
def BusMaster.addressAcked (b : BusMaster) : Bool := b.rxack == .ack && !b.arblost && !b.buserr

/-- `TB_ISR` is enabled (40_timebase.md R124). -/
def timerIrqEnabled (s : State) : Bool := s.tb.pend && s.tb.ie && s.ic.gie

/-- `PUMP_ISR` is enabled (43_bus_pump.md R191). -/
def pumpIrqEnabled (s : State) : Bool := s.bm.wif && s.bm.wie && s.ic.gie

/-- The encoding of `BM.PHASE` (10_state.md R22). -/
def phaseBits : Phase → BitVec 2
  | .idle => 0#2
  | .address => 1#2
  | .dataWrite => 2#2
  | .dataRead => 3#2

/-- The encoding of `BM.DIR` (R23). -/
def directionFlag : Direction → BitVec 1
  | .write => 0#1
  | .read => 1#1

/-- The encoding of an acknowledge bit (R27, R31). -/
def ackBit : Ack → BitVec 1
  | .ack => 0#1
  | .nak => 1#1

/-- The encoding of `BM.INFLIGHT` (R32). -/
def inflightBits : Inflight → BitVec 2
  | .none => 0#2
  | .addr => 1#2
  | .data => 2#2
  | .recv => 3#2

/-- The encoding of `BM.TXMODE` (R33). -/
def txmodeBits : TxMode → BitVec 2
  | .none => 0#2
  | .polling => 1#2
  | .pump => 2#2

/-- `IF.STATUS` (10_state.md R47), written from bit 31 down to bit 0 as the table of R47 lists them. -/
def statusWord (s : State) : Word :=
  (0#2 : BitVec 2) ++ ackBit s.bm.ackact ++ BitVec.ofBool s.ifc.cmdfault ++ BitVec.ofBool s.ic.gie ++
  BitVec.ofBool s.tb.ie ++ BitVec.ofBool s.tb.pend ++ BitVec.ofBool s.tb.run ++ s.bm.rdcnt ++
  inflightBits s.bm.inflight ++ txmodeBits s.bm.txmode ++ BitVec.ofBool s.bm.pdone ++
  BitVec.ofBool s.bm.pact ++ BitVec.ofBool s.bm.wie ++ BitVec.ofBool s.bm.en ++
  directionFlag s.bm.dir ++ phaseBits s.bm.phase ++ BitVec.ofBool s.bm.buserr ++
  BitVec.ofBool s.bm.arblost ++ ackBit s.bm.rxack ++ BitVec.ofBool s.bm.rif ++ BitVec.ofBool s.bm.wif

end Sys2Proof.Machine
end

