-- ==== Sys2Proof/Machine/Operands.lean ====
section
/-! DEFINITION. Operands and results: the address byte and its direction bit (30_encoding.md R93, R94), the byte
range of `IF.ARG0` and `IF.ARG1` (20_memory.md R61), the timer period (40_timebase.md R120), and the words a command
leaves in `IF.RESULT` (30_encoding.md R96). -/

namespace Sys2Proof.Machine

/-- The direction bit `d`: 0 for Write, 1 for Read (30_encoding.md R94, D6; PRESUMED by the spec, log 18). -/
def directionBit : Direction → BitVec 1
  | .write => 0#1
  | .read => 1#1

/-- The direction an address byte asks for: `BM.DIR <- ab[0]` (20_memory.md R66). -/
def directionOfByte (ab : Byte) : Direction :=
  if ab.extractLsb' 0 1 = directionBit .read then .read else .write

/-- `d = (read_count != 0) ? 1 : 0` (30_encoding.md R94). -/
def directionOfCount (readCount : Byte) : Direction :=
  if readCount = 0#8 then .write else .read

/-- The address byte `{addr[6:0], d}` (30_encoding.md R93). -/
def addressByte (addr : BusAddress) (d : Direction) : Byte := addr ++ directionBit d

/-- Does the range `[ptr, ptr + len)` stay inside the address space: `ptr + len <= 2^32` (20_memory.md R61)? -/
def rangeFits (ptr len : Word) : Bool := decide (ptr.toNat + len.toNat ≤ 2 ^ 32)

/-- `F_CORE_HZ / (TB_DIV * 1000)`, the timer input clocks per millisecond (40_timebase.md R120). The rounding and a
possible minus one are not in the source (D41): both are constants of Config (log 12). -/
def timerPeriod : Nat :=
  let clocks := Config.tbDiv * 1000
  let exact := Config.coreHz / clocks
  let rounded := if Config.periodRoundsUp && Config.coreHz % clocks != 0 then exact + 1 else exact
  if Config.periodMinusOne then rounded - 1 else rounded

/-- The divisor `BaudOf(F_CORE_HZ, clock_target_hz, rise_time_ns)` (41_bus_address.md R141). -/
def baudDivisor (clockTargetHz riseTimeNs : Word) : BitVec Config.baudW :=
  Config.baudOf Config.coreHz clockTargetHz.toNat riseTimeNs.toNat

/-- A `bool` result (30_encoding.md R96). -/
def boolResult (b : Bool) : Word := if b then 0x00000001#32 else 0x00000000#32

/-- A `byte` result, zero-extended (R96). -/
def byteResult (b : Byte) : Word := b.zeroExtend 32

/-- The result of SCAN: `0x100 + a` for the address found (R96). -/
def foundResult (a : BusAddress) : Word := 0x00000100#32 + a.zeroExtend 32

/-- The result of SCAN when no address acknowledges (R96). -/
def notFoundResult : Word := 0x00000000#32

/-- The result of a command that has none (R96). -/
def noResult : Word := 0x00000000#32

/-- The read counter consumed by one, floor at zero (00_scope.md R12 b). -/
def countDown (n : Byte) : Byte := if n = 0#8 then 0#8 else n - 1#8

/-- An acknowledge bit drawn as a free value (00_scope.md R10, D39): `ACK` = 0, `NAK` = 1. -/
def ackOfBit (b : Bool) : Ack := if b then .nak else .ack

end Sys2Proof.Machine
end

