-- ==== Sys2Proof/Machine/Ops.lean ====
section
/-! DEFINITION. The named operations over memory, the trace and the registers: host memory (20_memory.md R61, R62),
the bus primitives (R66, R69, R70, R71), completing a command (30_encoding.md R96, R104), and taking the block's one
exception, IllegalCommand (60_exceptions.md R209). Nothing is saved and nothing is returned from: the block has no
program counter and no mode (R215, R216), so a fault bit is the whole entry. -/

namespace Sys2Proof.Machine

/-! ## Host byte memory -/

/-- What an address that no cell lists reads as. The spec says host memory is total and its contents are the
host's (20_memory.md R61): DESIGN CHOICE 0, unsafe, log 8. -/
def unlistedByte : Byte := 0#8

/-- The byte at an address. -/
def memoryRead : Memory → Nat → Byte
  | [], _ => unlistedByte
  | (k, v) :: m, a => if a = k then v else memoryRead m a

/-- The memory with one byte written, in canonical form. -/
def memoryWrite : Memory → Nat → Byte → Memory
  | [], a, b => if b = unlistedByte then [] else [(a, b)]
  | (k, v) :: m, a, b =>
    if a < k then
      if b = unlistedByte then (k, v) :: m else (a, b) :: (k, v) :: m
    else if a = k then
      if b = unlistedByte then m else (a, b) :: m
    else (k, v) :: memoryWrite m a b

/-- Every address listed is at least `lo` and inside the address space, addresses rise strictly, and no cell holds
what an unlisted address reads as. -/
def cellsFrom : Nat → Memory → Bool
  | _, [] => true
  | lo, (k, v) :: m => decide (lo ≤ k) && decide (k < 2 ^ 32) && v != unlistedByte && cellsFrom (k + 1) m

/-- The canonical form of memory. -/
def Memory.wf (m : Memory) : Bool := cellsFrom 0 m

/-- `MemRead(addr, 1)` (20_memory.md R62): it has no side effect and cannot fault. -/
def memRead (s : State) (addr : Word) : Byte := memoryRead s.mem addr.toNat

/-- The host writes one byte of its own memory (R61, R79); the block never does. -/
def hostStore (addr : Word) (b : Byte) (s : State) : State :=
  { s with mem := memoryWrite s.mem addr.toNat b }

/-! ## The trace, completion, IllegalCommand -/

/-- Append events to `BUS.TRACE` (20_memory.md R64). -/
def record (es : List BusEvent) (s : State) : State := { s with trace := s.trace ++ es }

/-- The command in progress goes on to another of its numbered steps. -/
def goTo (c : Command) (s : State) : State := { s with cmd := some c }

/-- `return v` (00_scope.md R8): the result is written and the command is complete. -/
def complete (v : Word) (s : State) : State := { s with ifc := { s.ifc with result := v }, cmd := none }

/-- `raise IllegalCommand` (60_exceptions.md R209): `IF.CMDFAULT <- 1` and nothing else. -/
def raiseIllegalCommand (s : State) : State := { s with ifc := { s.ifc with cmdfault := true } }

/-- Go on with a next state; a fault or a refusal stands. -/
def andThen (o : Host.Outcome State Fault Refusal) (f : State → Host.Outcome State Fault Refusal) :
    Host.Outcome State Fault Refusal :=
  match o with
  | .next s => f s
  | .fault r => .fault r
  | .refused r => .refused r

/-! ## Bus primitives -/

/-- `BusAddrPhase(ab)` (20_memory.md R66). -/
def busAddrPhase (ab : Byte) (s : State) : State :=
  record [.start, .tx ab]
    { s with bm := { s.bm with
        wif := false, rif := false, arblost := false, buserr := false,
        phase := .address, dir := directionOfByte ab, txmode := .none, inflight := .addr } }

/-- `BusSendData(b)` (20_memory.md R69): it requires `BM.PHASE = DataWrite` and `BM.WIF = 1`; the spec gives it no
meaning otherwise (log 17). -/
def busSendData (b : Byte) (s : State) : Host.Outcome State Fault Refusal :=
  if s.bm.phase = .dataWrite ∧ s.bm.wif = true then
    .next (record [.tx b] { s with bm := { s.bm with data := b, wif := false, inflight := .data } })
  else .fault .sendRequirement

/-- `BusAckAndReceive()` (20_memory.md R70): it requires `BM.PHASE = DataRead` and `BM.RIF = 1` (log 17). -/
def busAckAndReceive (s : State) : Host.Outcome State Fault Refusal :=
  if s.bm.phase = .dataRead ∧ s.bm.rif = true then
    .next (record [.master .ack] { s with bm := { s.bm with ackact := .ack, rif := false, inflight := .recv } })
  else .fault .ackRequirement

/-- `BusNak()` (20_memory.md R70): it requires `BM.PHASE = DataRead` and `BM.RIF = 1` (log 17). -/
def busNak (s : State) : Host.Outcome State Fault Refusal :=
  if s.bm.phase = .dataRead ∧ s.bm.rif = true then
    .next (record [.master .nak] { s with bm := { s.bm with ackact := .nak, rif := false, inflight := .none } })
  else .fault .ackRequirement

/-- `BusStop()` (20_memory.md R71): `P` only where this master owns the bus (10_state.md R38). -/
def busStop (s : State) : State :=
  record (if s.bm.owns then [.stop] else [])
    { s with bm := { s.bm with
        phase := .idle, inflight := .none, txmode := .none,
        wif := false, rif := false, arblost := false, buserr := false } }

/-! ## Free values -/

/-- Take a draw (00_scope.md R10): the bit, and the state in which the next draw is a fresh one. -/
def draw (s : State) : Bool × State := (Config.freeBit s.draws, { s with draws := s.draws + 1 })

end Sys2Proof.Machine
end

