-- ==== Sys2Proof/Machine/Admission.lean ====
section
/-! DEFINITION. Admission, stage 2 of a command (30_encoding.md R104): it reads state and changes none. The table of
41_bus_address.md R140, the exclusion of 43_bus_pump.md R193, and the conditions of 20_memory.md R61,
41_bus_address.md R141 and 40_timebase.md R121. `none` admits. Where several reasons to refuse hold at once the first
one here is named (log 15). -/

namespace Sys2Proof.Machine

/-- The first reason of two. -/
def orElseRefuse (a b : Option Refusal) : Option Refusal :=
  match a with
  | some r => some r
  | none => b

/-- A reason that holds when a condition does. -/
def refuseIf (c : Bool) (r : Refusal) : Option Refusal := if c then some r else none

/-- No command may be in progress (30_encoding.md R104). -/
def admitAny (s : State) : Option Refusal := refuseIf s.cmd.isSome .reentrant

/-- Any bus command: none in progress, and no asynchronous write (43_bus_pump.md R193). -/
def admitBus (s : State) : Option Refusal :=
  orElseRefuse (admitAny s) (refuseIf s.bm.pact .pumpActive)

/-- Any bus command but BM_INIT: the bus master is enabled (41_bus_address.md R140). -/
def admitEnabled (s : State) : Option Refusal :=
  orElseRefuse (admitBus s) (refuseIf (!s.bm.en) .notEnabled)

/-- BM_INIT (41_bus_address.md R140, R141): before it has run, or in Idle, with a target clock. -/
def admitInit (s : State) : Option Refusal :=
  orElseRefuse (admitBus s)
    (orElseRefuse (refuseIf (s.bm.en && s.bm.phase != .idle) .wrongPhase)
      (refuseIf (s.ifc.arg0 == 0#32) .zeroTargetClock))

/-- START, RESTART, SCAN (R140): in every phase, unless a read is open. -/
def admitAddress (s : State) : Option Refusal :=
  orElseRefuse (admitEnabled s) (refuseIf s.bm.readOpen .readOpen)

/-- STOP (R140): not in Idle, and not while a read is open. -/
def admitStop (s : State) : Option Refusal :=
  orElseRefuse (admitEnabled s)
    (orElseRefuse (refuseIf (s.bm.phase == .idle) .wrongPhase) (refuseIf s.bm.readOpen .readOpen))

/-- WRITE (R140): in DataWrite, unless the pump was used. -/
def admitWrite (s : State) : Option Refusal :=
  orElseRefuse (admitEnabled s)
    (orElseRefuse (refuseIf (s.bm.phase != .dataWrite) .wrongPhase)
      (refuseIf (s.bm.txmode == .pump) .mixedStrategies))

/-- WRITE_BYTES (42_bus_data.md R171): as WRITE, and the range fits. -/
def admitWriteBytes (s : State) : Option Refusal :=
  orElseRefuse (admitWrite s) (refuseIf (!rangeFits s.ifc.arg0 s.ifc.arg1) .rangeWraps)

/-- WRITE_ASYNC (43_bus_pump.md R190): in DataWrite, unless polling was used, and the range fits. -/
def admitAsync (s : State) : Option Refusal :=
  orElseRefuse (admitEnabled s)
    (orElseRefuse (refuseIf (s.bm.phase != .dataWrite) .wrongPhase)
      (orElseRefuse (refuseIf (s.bm.txmode == .polling) .mixedStrategies)
        (refuseIf (!rangeFits s.ifc.arg0 s.ifc.arg1) .rangeWraps)))

/-- READ, READ_LAST (R140): in DataRead. -/
def admitRead (s : State) : Option Refusal :=
  orElseRefuse (admitEnabled s) (refuseIf (s.bm.phase != .dataRead) .wrongPhase)

/-- TB_NOW (40_timebase.md R121): the timebase runs. -/
def admitNow (s : State) : Option Refusal :=
  orElseRefuse (admitAny s) (refuseIf (!s.tb.run) .timebaseNotInitialised)

/-- Refuse, or go on. -/
def admitted (r : Option Refusal) (go : Host.Outcome State Fault Refusal) : Host.Outcome State Fault Refusal :=
  match r with
  | some reason => .refused reason
  | none => go

end Sys2Proof.Machine
end

