-- ==== Sys2Proof/Machine/Steps.lean ====
section
/-! DEFINITION. The numbered steps of the commands (40_timebase.md R120 to R122; 41_bus_address.md R141 to R145;
42_bus_data.md R170 to R173; 43_bus_pump.md R190), each atomic (00_scope.md R9). A `wait until` step whose condition does not hold changes
nothing and leaves the command where it stands: with no move that sets the condition this is the Indefinite Stall
(60_exceptions.md R208), never a result. -/

namespace Sys2Proof.Machine

/-! ## Shared operations -/

/-- A `wait until` step: go on if the condition holds, else stay (00_scope.md R9). -/
def waitStep (c : Bool) (go : Command) (s : State) : State := if c then goTo go s else s

/-- START step 1 (41_bus_address.md R142): the direction, the read counter in read direction, the address phase. -/
def issueAddress (addr : BusAddress) (readCount : Byte) (s : State) : State :=
  busAddrPhase (addressByte addr (directionOfCount readCount))
    { s with bm := { s.bm with rdcnt := if readCount = 0#8 then s.bm.rdcnt else readCount } }

/-- START step 3 (R142): the result of an address phase. -/
def finishAddress (s : State) : State := complete (boolResult s.bm.addressAcked) s

/-- READ step 2 (42_bus_data.md R172): consume the read counter by one, floor at zero. -/
def consumeCount (s : State) : State := { s with bm := { s.bm with rdcnt := countDown s.bm.rdcnt } }

/-- READ step 4 (R172): ACK while the counter is non-zero, else NAK. -/
def acknowledgeByte (s : State) : Host.Outcome State Fault Refusal :=
  if s.bm.rdcnt ≠ 0#8 then busAckAndReceive s else busNak s

/-- WRITE step 1 (R170): the transaction has committed to the polling strategy. -/
def choosePolling (s : State) : State := { s with bm := { s.bm with txmode := .polling } }

/-! ## Commands of one atomic step -/

/-- The one atomic step of BM_INIT (41_bus_address.md R141). -/
def initBusMaster (clockTargetHz riseTimeNs : Word) (s : State) : State :=
  { s with bm := { s.bm with
      baud := baudDivisor clockTargetHz riseTimeNs, en := true,
      phase := .idle, inflight := .none, txmode := .none,
      wif := false, rif := false, arblost := false, buserr := false,
      wie := false, pact := false } }

/-- The one atomic step of WRITE_ASYNC (43_bus_pump.md R190); the end pointer is modulo 2^32 (00_scope.md R12 d). -/
def armPump (ptr len : Word) (s : State) : State :=
  { s with bm := { s.bm with
      cur := ptr, fin := ptr + len,
      pdone := false, pact := true, txmode := .pump, wie := true } }

/-- The one atomic step of TB_INIT (40_timebase.md R120). `TB.PEND` is drawn from 0 and its old value (D26, log 10). -/
def startTimebase (s : State) : State :=
  { (draw s).2 with
    tb := { count := 0#32, run := true, pend := s.tb.pend && (draw s).1, ie := true, period := timerPeriod }
    ic := { gie := true } }

/-- BM_INIT (41_bus_address.md R141). -/
def stepBmInit (clockTargetHz riseTimeNs : Word) (s : State) : Host.Outcome State Fault Refusal :=
  .next (complete noResult (initBusMaster clockTargetHz riseTimeNs s))

/-- STOP (41_bus_address.md R144): it waits for nothing (D16). -/
def stepStop (s : State) : Host.Outcome State Fault Refusal := .next (complete noResult (busStop s))

/-- WRITE_ASYNC (43_bus_pump.md R190): it completes without waiting. -/
def stepWriteAsync (ptr len : Word) (s : State) : Host.Outcome State Fault Refusal :=
  .next (complete noResult (armPump ptr len s))

/-- TB_INIT (40_timebase.md R120). -/
def stepTbInit (s : State) : Host.Outcome State Fault Refusal := .next (complete noResult (startTimebase s))

/-- TB_NOW (40_timebase.md R121): the critical section is inside the one atomic step, so its whole effect is the
result. -/
def stepTbNow (s : State) : Host.Outcome State Fault Refusal := .next (complete s.tb.count s)

/-- TB_RESTART (40_timebase.md R122): exactly the step of TB_INIT. -/
def stepTbRestart (s : State) : Host.Outcome State Fault Refusal := .next (complete noResult (startTimebase s))

/-! ## START and RESTART -/

/-- The numbered steps of START (41_bus_address.md R142). -/
def stepStart (addr : BusAddress) (readCount : Byte) (at_ : AddrStep) (s : State) :
    Host.Outcome State Fault Refusal :=
  match at_ with
  | .issue => .next (goTo (.start addr readCount .wait) (issueAddress addr readCount s))
  | .wait => .next (waitStep s.bm.addressDone (.start addr readCount .form) s)
  | .form => .next (finishAddress s)

/-- The numbered steps of RESTART (41_bus_address.md R143): exactly those of START. -/
def stepRestart (addr : BusAddress) (readCount : Byte) (at_ : AddrStep) (s : State) :
    Host.Outcome State Fault Refusal :=
  match at_ with
  | .issue => .next (goTo (.restart addr readCount .wait) (issueAddress addr readCount s))
  | .wait => .next (waitStep s.bm.addressDone (.restart addr readCount .form) s)
  | .form => .next (finishAddress s)

/-! ## SCAN -/

/-- The numbered steps of SCAN (41_bus_address.md R145); a probe is a write-direction address phase, and `BM.RDCNT`
is not written. -/
def stepScan (a : BusAddress) (at_ : ScanStep) (s : State) : Host.Outcome State Fault Refusal :=
  match at_ with
  | .init => .next (goTo (.scan 0#7 .probe) s)
  | .probe => .next (goTo (.scan a .wait) (busAddrPhase (addressByte a .write) s))
  | .wait => .next (waitStep s.bm.addressDone (.scan a .test) s)
  | .test =>
    if s.bm.addressAcked then .next (complete (foundResult a) s) else .next (goTo (.scan a .next) s)
  | .next =>
    if a = 127#7 then .next (complete notFoundResult s) else .next (goTo (.scan (a + 1#7) .probe) s)

/-! ## WRITE and WRITE_BYTES -/

/-- The numbered steps of WRITE (42_bus_data.md R170). -/
def stepWrite (byte : Byte) (at_ : WriteStep) (s : State) : Host.Outcome State Fault Refusal :=
  match at_ with
  | .mode => .next (goTo (.write byte .wait) (choosePolling s))
  | .wait => .next (waitStep s.bm.wif (.write byte .send) s)
  | .send => busSendData byte (goTo (.write byte .waitAck) s)
  | .waitAck => .next (waitStep s.bm.wif (.write byte .form) s)
  | .form => .next (complete (boolResult (s.bm.rxack == .ack)) s)

/-- The numbered steps of WRITE_BYTES (42_bus_data.md R171); the byte is read from host memory in the step that
sends it. -/
def stepWriteBytes (ptr len i : Word) (at_ : WriteBytesStep) (s : State) : Host.Outcome State Fault Refusal :=
  match at_ with
  | .init => .next (goTo (.writeBytes ptr len 0#32 .test) s)
  | .test =>
    if i = len then .next (complete (boolResult true) s) else .next (goTo (.writeBytes ptr len i .mode) s)
  | .mode => .next (goTo (.writeBytes ptr len i .wait) (choosePolling s))
  | .wait => .next (waitStep s.bm.wif (.writeBytes ptr len i .send) s)
  | .send => busSendData (memRead s (ptr + i)) (goTo (.writeBytes ptr len i .waitAck) s)
  | .waitAck => .next (waitStep s.bm.wif (.writeBytes ptr len i .check) s)
  | .check =>
    if s.bm.rxack = .nak then .next (complete (boolResult false) s)
    else .next (goTo (.writeBytes ptr len i .next) s)
  | .next => .next (goTo (.writeBytes ptr len (i + 1#32) .test) s)

/-! ## READ and READ_LAST -/

/-- The numbered steps of READ (42_bus_data.md R172): the decrement, the byte, the acknowledge bit, in that order. -/
def stepRead (at_ : ReadStep) (s : State) : Host.Outcome State Fault Refusal :=
  match at_ with
  | .wait => .next (waitStep s.bm.rif (.read .count) s)
  | .count => .next (goTo (.read .take) (consumeCount s))
  | .take => .next (goTo (.read (.ack s.bm.data)) s)
  | .ack v => acknowledgeByte (goTo (.read (.form v)) s)
  | .form v => .next (complete (byteResult v) s)

/-- The numbered steps of READ_LAST (42_bus_data.md R173). -/
def stepReadLast (at_ : ReadLastStep) (s : State) : Host.Outcome State Fault Refusal :=
  match at_ with
  | .zero => .next (goTo (.readLast .wait) { s with bm := { s.bm with rdcnt := 0#8 } })
  | .wait => .next (waitStep s.bm.rif (.readLast .count) s)
  | .count => .next (goTo (.readLast .take) (consumeCount s))
  | .take => .next (goTo (.readLast (.nak s.bm.data)) s)
  | .nak v => busNak (goTo (.readLast (.form v)) s)
  | .form v => .next (complete (byteResult v) s)

end Sys2Proof.Machine
end

