-- ==== Sys2Proof/Machine/Engine.lean ====
section
/-! DEFINITION. The engine: the next numbered step of the command in progress (00_scope.md R5, R9), and issuing a
command (30_encoding.md R104). Where the schedule holds further moves, issuing is a step of its own and so is each
numbered step, so that any move can fall between two of them (20_memory.md R80); where it holds none, nothing can fall
between them and the engine runs on until it waits or is done (log 3, 4). -/

namespace Sys2Proof.Machine

/-- The next numbered step of the command in progress; nothing if there is none, or if it waits. -/
def engineStep (s : State) : Host.Outcome State Fault Refusal :=
  match s.cmd with
  | none => .next s
  | some (.bmInit clockTargetHz riseTimeNs) => stepBmInit clockTargetHz riseTimeNs s
  | some .stop => stepStop s
  | some (.writeAsync ptr len) => stepWriteAsync ptr len s
  | some .tbInit => stepTbInit s
  | some .tbNow => stepTbNow s
  | some .tbRestart => stepTbRestart s
  | some (.start addr readCount at_) => stepStart addr readCount at_ s
  | some (.restart addr readCount at_) => stepRestart addr readCount at_ s
  | some (.scan a at_) => stepScan a at_ s
  | some (.write byte at_) => stepWrite byte at_ s
  | some (.writeBytes ptr len i at_) => stepWriteBytes ptr len i at_ s
  | some (.read at_) => stepRead at_ s
  | some (.readLast at_) => stepReadLast at_ s

/-- `n` numbered steps in a row. -/
def engineRun : Nat → State → Host.Outcome State Fault Refusal
  | 0, s => .next s
  | n + 1, s => andThen (engineStep s) (engineRun n)

/-- No fewer numbered steps than any command takes without waiting for the environment (at most seven, by WRITE_BYTES from
its step 6 over step 2 to its step 5). -/
def longestStretch : Nat := 8

/-- Where no further move is due the engine goes on as far as it can; else the next move is the schedule's (log 3). -/
def engineTurn (s : State) : Host.Outcome State Fault Refusal :=
  match s.schedule with
  | [] => engineRun longestStretch s
  | _ :: _ => .next s

/-- An admitted command becomes the command in progress, at its first numbered step (30_encoding.md R104, log 4). -/
def issue (c : Command) (s : State) : Host.Outcome State Fault Refusal := engineTurn (goTo c s)

end Sys2Proof.Machine
end

