-- ==== Sys2Proof/Machine/BusAddress.lean ====
section
/-! DEFINITION. Setup, address phase, stop and scan (41_bus_address.md): BM_INIT, SCAN, START, RESTART, STOP
(R141 to R145). The operands in `IF.ARG0` and `IF.ARG1` are taken at the moment the command is issued
(20_memory.md R79). -/

namespace Sys2Proof.Machine

/-- BM_INIT (41_bus_address.md R141). -/
def execBmInit (s : State) : Host.Outcome State Fault Refusal :=
  admitted (admitInit s) (issue (.bmInit s.ifc.arg0 s.ifc.arg1) s)

/-- SCAN (R145). -/
def execScan (s : State) : Host.Outcome State Fault Refusal :=
  admitted (admitAddress s) (issue (.scan 0#7 .init) s)

/-- START (R142). -/
def execStart (addr : BusAddress) (readCount : Byte) (s : State) : Host.Outcome State Fault Refusal :=
  admitted (admitAddress s) (issue (.start addr readCount .issue) s)

/-- RESTART (R143). -/
def execRestart (addr : BusAddress) (readCount : Byte) (s : State) : Host.Outcome State Fault Refusal :=
  admitted (admitAddress s) (issue (.restart addr readCount .issue) s)

/-- STOP (R144). -/
def execStop (s : State) : Host.Outcome State Fault Refusal := admitted (admitStop s) (issue .stop s)

end Sys2Proof.Machine
end

