-- ==== Sys2Proof/Machine/BusData.lean ====
section
/-! DEFINITION. Byte write and byte read (42_bus_data.md): WRITE, WRITE_BYTES, READ, READ_LAST (R170 to R173). The
operands in `IF.ARG0` and `IF.ARG1` are taken at the moment the command is issued (20_memory.md R79). -/

namespace Sys2Proof.Machine

/-- WRITE (42_bus_data.md R170). -/
def execWrite (byte : Byte) (s : State) : Host.Outcome State Fault Refusal :=
  admitted (admitWrite s) (issue (.write byte .mode) s)

/-- WRITE_BYTES (R171). -/
def execWriteBytes (s : State) : Host.Outcome State Fault Refusal :=
  admitted (admitWriteBytes s) (issue (.writeBytes s.ifc.arg0 s.ifc.arg1 0#32 .init) s)

/-- READ (R172). -/
def execRead (s : State) : Host.Outcome State Fault Refusal :=
  admitted (admitRead s) (issue (.read .wait) s)

/-- READ_LAST (R173). -/
def execReadLast (s : State) : Host.Outcome State Fault Refusal :=
  admitted (admitRead s) (issue (.readLast .zero) s)

end Sys2Proof.Machine
end

