-- ==== Sys2Proof/Machine/BusPump.lean ====
section
/-! DEFINITION. The interrupt-driven byte pump (43_bus_pump.md): the command WRITE_ASYNC (R190) and the handler step
PUMP_ISR (R191). -/

namespace Sys2Proof.Machine

/-- WRITE_ASYNC (43_bus_pump.md R190). -/
def execWriteAsync (s : State) : Host.Outcome State Fault Refusal :=
  admitted (admitAsync s) (issue (.writeAsync s.ifc.arg0 s.ifc.arg1) s)

/-- The firing that sends a byte (R191): read it at the cursor, advance the cursor, send it. -/
def pumpSend (s : State) : Host.Outcome State Fault Refusal :=
  busSendData (memRead s s.bm.cur) { s with bm := { s.bm with cur := s.bm.cur + 1#32 } }

/-- The firing that finds the cursor exhausted marks completion and disables the interrupt (R191, D19). -/
def pumpFinish (s : State) : State :=
  { s with bm := { s.bm with pdone := true, pact := false, wie := false } }

/-- `PUMP_ISR` (R191); it does not read `BM.RXACK` (D20). -/
def pumpIsr (s : State) : Host.Outcome State Fault Refusal :=
  if pumpIrqEnabled s then
    if s.bm.cur ≠ s.bm.fin then pumpSend s else .next (pumpFinish s)
  else .next s

end Sys2Proof.Machine
end

