-- ==== Sys2Proof/Machine/Timebase.lean ====
section
/-! DEFINITION. The timebase (40_timebase.md): the commands TB_INIT, TB_NOW, TB_RESTART (R120 to R122) and the steps
TB_TICK and TB_ISR (R123, R124). -/

namespace Sys2Proof.Machine

/-- TB_INIT (40_timebase.md R120). -/
def execTbInit (s : State) : Host.Outcome State Fault Refusal := admitted (admitAny s) (issue .tbInit s)

/-- TB_RESTART (R122): admission exactly that of TB_INIT. -/
def execTbRestart (s : State) : Host.Outcome State Fault Refusal := admitted (admitAny s) (issue .tbRestart s)

/-- TB_NOW (R121). -/
def execTbNow (s : State) : Host.Outcome State Fault Refusal := admitted (admitNow s) (issue .tbNow s)

/-- `TB_TICK` (R123), enabled while `TB.RUN = 1`: one pending condition, not a count of them (D25). -/
def tbTick (s : State) : State :=
  if s.tb.run then { s with tb := { s.tb with pend := true } } else s

/-- `TB_ISR` (R124): the increment modulo 2^32 and the acknowledge are one step (D23, D24). -/
def tbIsr (s : State) : State :=
  if timerIrqEnabled s then { s with tb := { s.tb with count := s.tb.count + 1#32, pend := false } } else s

end Sys2Proof.Machine
end

