-- ==== Sys2Proof/Machine/Dispatch.lean ====
section
/-! DEFINITION. The dispatcher: one arm per command (30_encoding.md R95), each one direct call of that command's
meaning. -/

namespace Sys2Proof.Machine

def exec (i : Instr) (s : State) : Host.Outcome State Fault Refusal :=
  match i with
  | .bmInit => Sys2Proof.Machine.execBmInit s
  | .scan => Sys2Proof.Machine.execScan s
  | .start addr readCount => Sys2Proof.Machine.execStart addr readCount s
  | .restart addr readCount => Sys2Proof.Machine.execRestart addr readCount s
  | .write byte => Sys2Proof.Machine.execWrite byte s
  | .writeBytes => Sys2Proof.Machine.execWriteBytes s
  | .read => Sys2Proof.Machine.execRead s
  | .readLast => Sys2Proof.Machine.execReadLast s
  | .stop => Sys2Proof.Machine.execStop s
  | .writeAsync => Sys2Proof.Machine.execWriteAsync s
  | .tbInit => Sys2Proof.Machine.execTbInit s
  | .tbNow => Sys2Proof.Machine.execTbNow s
  | .tbRestart => Sys2Proof.Machine.execTbRestart s

end Sys2Proof.Machine
end

