-- ==== Sys2Proof/Machine/Environment.lean ====
section
/-! DEFINITION. The steps of the environment (20_memory.md R65, R67, R68, R69): they complete what the block has put
in flight. A step that is not enabled is not taken (R80, log 2). -/

namespace Sys2Proof.Machine

/-- Is the answer an arbitration loss or a bus error (20_memory.md R65)? -/
def AddrAnswer.isBusFailure : AddrAnswer → Bool
  | .ack => false
  | .nak => false
  | .arbLost => true
  | .busErr => true
  | .arbLostAndBusErr => true

/-- An address phase that failed reports the write condition; `BM.PHASE` stays Address (20_memory.md R67, D9). -/
def addressFailed (rxack : Ack) (arb err : Bool) (es : List BusEvent) (s : State) : State :=
  record es
    { s with bm := { s.bm with
        rxack := rxack, arblost := s.bm.arblost || arb, buserr := s.bm.buserr || err,
        inflight := .none, wif := true } }

/-- An address phase that lost the bus: `BM.RXACK` is a draw (20_memory.md R67, D39, log 9). -/
def addressLost (arb err : Bool) (es : List BusEvent) (s : State) : State :=
  addressFailed (ackOfBit (draw s).1) arb err es (draw s).2

/-- An address byte that the slave acknowledged (20_memory.md R67): write direction reports the write condition,
read direction goes on to receive the first byte and reports nothing yet. -/
def addressAccepted (s : State) : State :=
  match s.bm.dir with
  | .write =>
    record [.slave .ack]
      { s with bm := { s.bm with rxack := .ack, phase := .dataWrite, inflight := .none, wif := true } }
  | .read =>
    record [.slave .ack]
      { s with bm := { s.bm with rxack := .ack, phase := .dataRead, inflight := .recv } }

/-- `EnvAddr(x)` while `BM.INFLIGHT = Addr` (20_memory.md R67). -/
def answerAddress (x : AddrAnswer) (s : State) : State :=
  match x with
  | .ack => addressAccepted s
  | .nak => addressFailed .nak false false [.slave .nak] s
  | .arbLost => addressLost true false [.arbLost] s
  | .busErr => addressLost false true [.busErr] s
  | .arbLostAndBusErr => addressLost true true [.arbLost, .busErr] s

/-- `EnvAddr(x)` as a move. Arbitration loss and bus error are answers to an address byte only: elsewhere inside a
transaction the run has no meaning (20_memory.md R65, D33, log 16). -/
def envAddr (x : AddrAnswer) (s : State) : Host.Outcome State Fault Refusal :=
  if s.bm.inflight = .addr then .next (answerAddress x s)
  else if x.isBusFailure = true ∧ s.bm.phase ≠ .idle then .refused .busFailureOutsideAddressPhase
  else .next s

/-- `EnvData(a)`, enabled while `BM.INFLIGHT = Data` (20_memory.md R69). -/
def envData (a : Ack) (s : State) : State :=
  if s.bm.inflight = .data then
    record [.slave a] { s with bm := { s.bm with rxack := a, inflight := .none, wif := true } }
  else s

/-- `EnvRecv(b)`, enabled while `BM.INFLIGHT = Recv` (20_memory.md R68). -/
def envRecv (b : Byte) (s : State) : State :=
  if s.bm.inflight = .recv then
    record [.rx b] { s with bm := { s.bm with data := b, inflight := .none, rif := true } }
  else s

/-- A step of the environment. -/
def envStep (e : EnvEvent) (s : State) : Host.Outcome State Fault Refusal :=
  match e with
  | .addr x => envAddr x s
  | .data a => .next (envData a s)
  | .recv b => .next (envRecv b s)

end Sys2Proof.Machine
end

