-- ==== Sys2Proof/Machine/Agents.lean ====
section
/-! DEFINITION. The moves of the agents (00_scope.md R5, 20_memory.md R80): the host at its interface
(10_state.md R46, R47), the engine, the environment, the timer, the two interrupt handlers, and a power-on reset
(70_reset_and_hazards.md R235, R236). -/

namespace Sys2Proof.Machine

/-- A word written to `IF.CMD` (30_encoding.md R104): decode first, and an illegal word is IllegalCommand whatever
else goes on (R97, 60_exceptions.md R214 d); a command word is executed. -/
def hostCommand (w : Word) (s : State) : Host.Outcome State Fault Refusal :=
  match decode w with
  | .error _ => .next (raiseIllegalCommand s)
  | .ok i => exec i s

/-- A host access that is possible only while no command is in progress (10_state.md R46, log 14). -/
def hostAccess (s t : State) : Host.Outcome State Fault Refusal :=
  match s.cmd with
  | none => .next t
  | some _ => .refused .hostBlocked

/-- The host's moves. A read leaves its value in `readout` and has no side effect on the block (10_state.md R46, R47);
`IF.STATUS` is readable at any time. A partial write of `IF.CMD` is not a command (20_memory.md R73, log 22). -/
def hostStep (a : HostAction) (s : State) : Host.Outcome State Fault Refusal :=
  match a with
  | .command w => hostCommand w s
  | .partialCommand => hostAccess s s
  | .writeArg0 v => hostAccess s { s with ifc := { s.ifc with arg0 := v } }
  | .writeArg1 v => hostAccess s { s with ifc := { s.ifc with arg1 := v } }
  | .readArg0 => hostAccess s { s with readout := s.ifc.arg0 }
  | .readArg1 => hostAccess s { s with readout := s.ifc.arg1 }
  | .readResult => hostAccess s { s with readout := s.ifc.result }
  | .readStatus => .next { s with readout := statusWord s }
  | .storeByte a b => hostAccess s (hostStore a b s)

/-- A power-on reset (70_reset_and_hazards.md R235, R236): the block and the trace are as `State.reset` says; host
memory is the host's, and the arguments of the run go on (log 20). -/
def powerOnReset (s : State) : State :=
  { State.reset with mem := s.mem, schedule := s.schedule, draws := s.draws, readout := s.readout }

/-- One move of one agent. -/
def perform (m : Move) (s : State) : Host.Outcome State Fault Refusal :=
  match m with
  | .host a => hostStep a s
  | .engine => engineStep s
  | .env e => envStep e s
  | .tick => .next (tbTick s)
  | .timerIrq => .next (tbIsr s)
  | .pumpIrq => pumpIsr s
  | .powerOn => .next (powerOnReset s)

/-- The next move of the run: the first one scheduled, or the engine's turn when none is (log 1, 3). -/
def takeMove (s : State) : Host.Outcome State Fault Refusal :=
  match s.schedule with
  | [] => engineTurn s
  | m :: ms => perform m { s with schedule := ms }

/-- The state in which the host writes a command word next. -/
def scheduleCommand (w : Word) (s : State) : State :=
  { s with schedule := .host (.command w) :: s.schedule }

end Sys2Proof.Machine
end

