-- ==== Sys2Proof/Machine/Step.lean ====
section
/-! DEFINITION. The step of the machine: the next move of the run (20_memory.md R80). The block fetches no
instruction (R79): a command comes to it as a word the host writes to `IF.CMD`, so the word to be run next is the next
scheduled move (log 5). -/

namespace Sys2Proof.Machine

/-- One step of the machine. -/
def step (s : State) : Host.Outcome State Fault Refusal := takeMove s

/-- The state with a command word as the host's next write of `IF.CMD`: the bits of `w` below `nbits`, the bits above
them 0. A value of more than 32 bits is no command word and changes nothing. -/
def State.withFetchWord (s : State) (nbits w : Nat) : State :=
  match tableWord nbits w with
  | none => s
  | some cmd => scheduleCommand cmd s

end Sys2Proof.Machine
end

