-- ==== Sys2Proof/Safety.lean ====
section
/-! DEFINITION. What claims are stated in terms of: the invariants of the bus master (10_state.md R37), what stands at
each numbered step of a command in progress, and the protocol that `BUS.TRACE` keeps (41_bus_address.md R146,
42_bus_data.md R174). -/

namespace Sys2Proof.Machine

/-! ## The protocol of the trace -/

/-- What the events so far leave on the bus. -/
inductive BusView where
  /-- No transaction: no `S` since the last `P`. -/
  | idle
  /-- An `S` whose address byte has not followed. -/
  | started
  /-- An address byte of that direction, not answered. -/
  | addressed (d : Direction)
  /-- The address byte was not acknowledged. -/
  | unanswered
  /-- Arbitration was lost or a bus error occurred at the address byte. -/
  | lost
  /-- The slave acknowledged a write-direction address byte, and every data byte since has been answered. -/
  | writing
  /-- A data byte not answered yet. -/
  | sending
  /-- A byte is being received. -/
  | receiving
  /-- A byte has been received and the master's acknowledge bit for it has not been sent. -/
  | holding
  /-- The master's NAK has ended the read. -/
  | closed
  /-- The events break the protocol. -/
  | broken
deriving DecidableEq, Repr

/-- One event. A data byte has a place only after an acknowledged address byte of its direction (R146), and a read has
the shape `SlaveAck, Rx, (MasterAck, Rx)*, MasterNak` (R174). -/
def BusView.after (v : BusView) (e : BusEvent) : BusView :=
  match e, v with
  | .start, .idle => .started
  | .start, .unanswered => .started
  | .start, .lost => .started
  | .start, .writing => .started
  | .start, .closed => .started
  | .tx ab, .started => .addressed (directionOfByte ab)
  | .tx _, .writing => .sending
  | .slave .ack, .addressed .write => .writing
  | .slave .ack, .addressed .read => .receiving
  | .slave .nak, .addressed _ => .unanswered
  | .slave _, .sending => .writing
  | .arbLost, .addressed _ => .lost
  | .busErr, .addressed _ => .lost
  | .busErr, .lost => .lost
  | .rx _, .receiving => .holding
  | .master .ack, .holding => .receiving
  | .master .nak, .holding => .closed
  | .stop, .unanswered => .idle
  | .stop, .writing => .idle
  | .stop, .closed => .idle
  | _, _ => .broken

/-- The view after a whole trace. -/
def busView (t : List BusEvent) : BusView := t.foldl BusView.after .idle

/-- The trace keeps the protocol. -/
def traceLegal (t : List BusEvent) : Bool := busView t != .broken

/-- The view that the state of the bus master stands for while the block is enabled. `BM.PHASE` is Idle after a `STOP`
also where the bus was lost and no `P` was put on it (20_memory.md R71). -/
def BusMaster.matchesView (b : BusMaster) (v : BusView) : Bool :=
  match b.phase with
  | .idle => v == .idle || v == .lost
  | .address =>
    if b.inflight = .addr then v == .addressed b.dir
    else if b.arblost || b.buserr then v == .lost
    else v == .unanswered
  | .dataWrite => if b.inflight = .data then v == .sending else v == .writing
  | .dataRead =>
    if b.inflight = .recv then v == .receiving
    else if b.rif then v == .holding
    else v == .closed

/-! ## The invariants -/

/-- The invariants (b) to (g) of 10_state.md R37. -/
structure BusMaster.Inv (b : BusMaster) : Prop where
  writeDir : b.phase = .dataWrite → b.dir = .write
  readDir : b.phase = .dataRead → b.dir = .read
  oneCondition : ¬(b.wif = true ∧ b.rif = true)
  inflightNoCondition : b.inflight ≠ .none → b.wif = false ∧ b.rif = false
  rifDataRead : b.rif = true → b.phase = .dataRead
  pump : b.pact = true → b.phase = .dataWrite ∧ b.txmode = .pump ∧ b.wie = true ∧ b.pdone = false
  recvDataRead : b.inflight = .recv → b.phase = .dataRead
  dataDataWrite : b.inflight = .data → b.phase = .dataWrite
  addrAddress : b.inflight = .addr → b.phase = .address

/-- What further holds of the bus master between any two steps. -/
structure BusMaster.Settled (b : BusMaster) : Prop where
  /-- The write-ready interrupt is enabled exactly while an asynchronous write is in progress (R36, R190, R191). -/
  wieIffPact : b.wie = b.pact
  /-- No condition outside a transaction (20_memory.md R71, 41_bus_address.md R141). -/
  idleQuiet : b.phase = .idle → b.wif = false ∧ b.inflight = .none
  /-- An address phase is in flight or has reported the write condition (20_memory.md R67). -/
  addressWaits : b.en = true → b.phase = .address → b.inflight = .addr ∨ b.wif = true
  /-- In DataWrite a byte is in flight or the controller is ready for one (42_bus_data.md R170 corner case a). -/
  writeReady : b.en = true → b.phase = .dataWrite → b.inflight = .data ∨ b.wif = true
  /-- In DataRead the write condition is clear (R67). -/
  readNoWif : b.phase = .dataRead → b.wif = false
  /-- A lost bus leaves a failed address phase (60_exceptions.md R206, R207). -/
  lostAddress : b.arblost = true ∨ b.buserr = true → b.phase = .address ∧ b.inflight = .none
  /-- An address phase that stays in Address failed (41_bus_address.md R140). -/
  addressFailed : b.en = true → b.phase = .address → b.inflight = .none → b.addressAcked = false
  /-- A transmit strategy is chosen only in DataWrite (41_bus_address.md R140). -/
  strategy : b.txmode ≠ .none → b.phase = .dataWrite

/-- Between commands, and while a timebase command is in progress, no address phase is in flight, and a data byte is in
flight only for the pump (41_bus_address.md R140, 42_bus_data.md R170). -/
def BusMaster.AtRest (b : BusMaster) : Prop :=
  b.inflight ≠ .addr ∧ (b.pact = false → b.inflight ≠ .data)

/-- The commands that need an enabled bus master without an asynchronous write (41_bus_address.md R140,
43_bus_pump.md R193). -/
def Command.onBus (c : Command) : Bool :=
  match c with
  | .bmInit _ _ => false
  | .tbInit => false
  | .tbNow => false
  | .tbRestart => false
  | .stop => true
  | .writeAsync _ _ => true
  | .start _ _ _ => true
  | .restart _ _ _ => true
  | .scan _ _ => true
  | .write _ _ => true
  | .writeBytes _ _ _ _ => true
  | .read _ => true
  | .readLast _ => true

/-- What holds of the bus master when the command in progress stands at one of its numbered steps. -/
def Command.Holds (c : Command) (b : BusMaster) : Prop :=
  match c with
  | .bmInit _ _ => b.pact = false ∧ b.inflight = .none ∧ (b.en = true → b.phase = .idle)
  | .stop => b.phase ≠ .idle ∧ b.inflight = .none ∧ b.rif = false
  | .writeAsync ptr len =>
    b.phase = .dataWrite ∧ b.txmode ≠ .polling ∧ b.inflight = .none ∧ rangeFits ptr len = true
  | .tbInit => b.AtRest
  | .tbNow => b.AtRest
  | .tbRestart => b.AtRest
  | .start _ _ .issue => b.inflight = .none ∧ b.rif = false
  | .start _ _ .wait =>
    b.phase ≠ .idle ∧ b.inflight ≠ .data ∧ (b.inflight = .none → b.addressDone = true) ∧
      (b.phase ≠ .address → b.addressAcked = true)
  | .start _ _ .form =>
    b.phase ≠ .idle ∧ b.inflight = .none ∧ b.addressDone = true ∧ (b.phase ≠ .address → b.addressAcked = true)
  | .restart _ _ .issue => b.inflight = .none ∧ b.rif = false
  | .restart _ _ .wait =>
    b.phase ≠ .idle ∧ b.inflight ≠ .data ∧ (b.inflight = .none → b.addressDone = true) ∧
      (b.phase ≠ .address → b.addressAcked = true)
  | .restart _ _ .form =>
    b.phase ≠ .idle ∧ b.inflight = .none ∧ b.addressDone = true ∧ (b.phase ≠ .address → b.addressAcked = true)
  | .scan _ .init => b.inflight = .none ∧ b.rif = false
  | .scan _ .probe => b.inflight = .none ∧ b.rif = false
  | .scan _ .wait =>
    b.dir = .write ∧ b.phase ≠ .idle ∧ b.phase ≠ .dataRead ∧ b.inflight ≠ .data ∧
      (b.phase ≠ .address → b.addressAcked = true)
  | .scan _ .test =>
    b.dir = .write ∧ b.phase ≠ .idle ∧ b.phase ≠ .dataRead ∧ b.inflight = .none ∧
      (b.phase ≠ .address → b.addressAcked = true)
  | .scan _ .next => b.phase = .address ∧ b.inflight = .none
  | .write _ .mode => b.phase = .dataWrite ∧ b.txmode ≠ .pump ∧ b.inflight = .none
  | .write _ .waitAck => b.phase = .dataWrite ∧ b.txmode = .polling
  | .write _ _ => b.phase = .dataWrite ∧ b.txmode = .polling ∧ b.inflight = .none
  | .writeBytes ptr len _ .init =>
    b.phase = .dataWrite ∧ b.txmode ≠ .pump ∧ b.inflight = .none ∧ rangeFits ptr len = true
  | .writeBytes ptr len i .test =>
    b.phase = .dataWrite ∧ b.txmode ≠ .pump ∧ b.inflight = .none ∧ rangeFits ptr len = true ∧ i ≤ len
  | .writeBytes ptr len i .mode =>
    b.phase = .dataWrite ∧ b.txmode ≠ .pump ∧ b.inflight = .none ∧ rangeFits ptr len = true ∧ i < len
  | .writeBytes ptr len i .waitAck =>
    b.phase = .dataWrite ∧ b.txmode = .polling ∧ rangeFits ptr len = true ∧ i < len
  | .writeBytes ptr len i _ =>
    b.phase = .dataWrite ∧ b.txmode = .polling ∧ b.inflight = .none ∧ rangeFits ptr len = true ∧ i < len
  | .read .wait => b.phase = .dataRead
  | .read (.form _) => b.phase = .dataRead
  | .read _ => b.phase = .dataRead ∧ b.rif = true
  | .readLast .zero => b.phase = .dataRead
  | .readLast .wait => b.phase = .dataRead ∧ b.rdcnt = 0#8
  | .readLast (.form _) => b.phase = .dataRead ∧ b.rdcnt = 0#8 ∧ b.inflight = .none ∧ b.rif = false
  | .readLast _ => b.phase = .dataRead ∧ b.rif = true ∧ b.rdcnt = 0#8

/-- The invariant of the machine: it holds at reset and every step keeps it. -/
structure State.Inv (s : State) : Prop where
  bus : s.bm.Inv
  settled : s.bm.Settled
  /-- What stands at the command in progress, or between commands. -/
  command : match s.cmd with
    | some c => (c.onBus = true → s.bm.en = true ∧ s.bm.pact = false) ∧ c.Holds s.bm
    | none => s.bm.AtRest
  /-- Before BM_INIT nothing has happened on the bus (70_reset_and_hazards.md R237). -/
  disabled : s.bm.en = false →
    busView s.trace = .idle ∧ s.bm.inflight = .none ∧ s.bm.pact = false ∧
      s.bm.phase ≠ .dataWrite ∧ s.bm.phase ≠ .dataRead
  /-- The trace is what the bus master's state says it is: R37 (a), R146, R174. -/
  view : s.bm.en = true → s.bm.matchesView (busView s.trace) = true
  /-- The memory keeps its canonical form. -/
  mem : Memory.wf s.mem = true

/-! ## Admission as the spec's table says it -/

/-- Is a bus command's cell in the table of 41_bus_address.md R140 one that admits? The exclusions of
43_bus_pump.md R193 and the operand conditions are `admits`. -/
def tableAdmits (i : Instr) (b : BusMaster) : Bool :=
  match i with
  | .bmInit => !b.en || b.phase == .idle
  | .start _ _ => b.en && (b.phase != .dataRead || !b.readOpen)
  | .restart _ _ => b.en && (b.phase != .dataRead || !b.readOpen)
  | .scan => b.en && (b.phase != .dataRead || !b.readOpen)
  | .stop => b.en && b.phase != .idle && (b.phase != .dataRead || !b.readOpen)
  | .write _ => b.en && b.phase == .dataWrite && b.txmode != .pump
  | .writeBytes => b.en && b.phase == .dataWrite && b.txmode != .pump
  | .writeAsync => b.en && b.phase == .dataWrite && b.txmode != .polling
  | .read => b.en && b.phase == .dataRead
  | .readLast => b.en && b.phase == .dataRead
  | .tbInit => true
  | .tbNow => true
  | .tbRestart => true

/-- The commands that touch no bus state (43_bus_pump.md R193 b). -/
def isTimebaseCommand (i : Instr) : Bool :=
  match i with
  | .tbInit => true
  | .tbNow => true
  | .tbRestart => true
  | _ => false

/-- The condition on the operands of a command, or on the timebase (41_bus_address.md R141, 20_memory.md R61,
40_timebase.md R121). -/
def operandsAdmit (i : Instr) (s : State) : Bool :=
  match i with
  | .bmInit => s.ifc.arg0 != 0#32
  | .writeBytes => rangeFits s.ifc.arg0 s.ifc.arg1
  | .writeAsync => rangeFits s.ifc.arg0 s.ifc.arg1
  | .tbNow => s.tb.run
  | _ => true

/-- A command is admitted: none is in progress (30_encoding.md R104), no asynchronous write excludes it
(43_bus_pump.md R193), the table admits it (41_bus_address.md R140), and so do its operands. -/
def admits (i : Instr) (s : State) : Bool :=
  s.cmd.isNone && (isTimebaseCommand i || !s.bm.pact) && tableAdmits i s.bm && operandsAdmit i s

/-- The command in progress that an admitted command becomes: its operands as they are at its issue (20_memory.md R79)
and the first numbered step of its rule (30_encoding.md R104). -/
def commandOf (i : Instr) (s : State) : Command :=
  match i with
  | .bmInit => .bmInit s.ifc.arg0 s.ifc.arg1
  | .scan => .scan 0#7 .init
  | .start addr readCount => .start addr readCount .issue
  | .restart addr readCount => .restart addr readCount .issue
  | .write byte => .write byte .mode
  | .writeBytes => .writeBytes s.ifc.arg0 s.ifc.arg1 0#32 .init
  | .read => .read .wait
  | .readLast => .readLast .zero
  | .stop => .stop
  | .writeAsync => .writeAsync s.ifc.arg0 s.ifc.arg1
  | .tbInit => .tbInit
  | .tbNow => .tbNow
  | .tbRestart => .tbRestart

/-! ## Reset -/

/-- Every value that the reset table gives (10_state.md R55), an empty trace (70_reset_and_hazards.md R235) and no
command in progress. The fields the table leaves unspecified are not named. -/
structure State.AtResetValues (s : State) : Prop where
  en : s.bm.en = false
  rdcnt : s.bm.rdcnt = 0#8
  wif : s.bm.wif = false
  rif : s.bm.rif = false
  arblost : s.bm.arblost = false
  buserr : s.bm.buserr = false
  ackact : s.bm.ackact = .ack
  inflight : s.bm.inflight = .none
  txmode : s.bm.txmode = .none
  cur : s.bm.cur = 0#32
  fin : s.bm.fin = 0#32
  pact : s.bm.pact = false
  pdone : s.bm.pdone = false
  wie : s.bm.wie = false
  run : s.tb.run = false
  pend : s.tb.pend = false
  ie : s.tb.ie = false
  gie : s.ic.gie = false
  arg0 : s.ifc.arg0 = 0#32
  arg1 : s.ifc.arg1 = 0#32
  result : s.ifc.result = 0#32
  cmdfault : s.ifc.cmdfault = false
  trace : s.trace = []
  cmd : s.cmd = none

/-! ## Runs of moves -/

/-- A run of moves, one after the other, as `perform` takes them. -/
def performAll (ms : List Move) (s : State) : Host.Outcome State Fault Refusal :=
  match ms with
  | [] => .next s
  | m :: rest => andThen (perform m s) (performAll rest)

/-- The two commands that start the timebase anew (40_timebase.md R120, R122). -/
def startsTimebase (i : Instr) : Bool :=
  match i with
  | .tbInit => true
  | .tbRestart => true
  | _ => false

/-- A word that is no command starting the timebase anew. -/
def wordKeepsTimebase (w : Word) : Bool := (decode w).toOption.all fun i => !startsTimebase i

/-- A host action that does not start the timebase anew. -/
def hostKeepsTimebase (a : HostAction) : Bool :=
  match a with
  | .command w => wordKeepsTimebase w
  | _ => true

/-- A move that neither starts the timebase anew nor resets the block (40_timebase.md R125: "from a `restart()`"). -/
def keepsTimebase (m : Move) : Bool :=
  match m with
  | .host a => hostKeepsTimebase a
  | .powerOn => false
  | .engine => true
  | .env _ => true
  | .tick => true
  | .timerIrq => true
  | .pumpIrq => true

/-- TB_RESTART takes its one atomic step (40_timebase.md R122): as the engine's step, or where its issue goes on to it
because nothing else is due (log 3). -/
def restartStep (s t : State) : Prop :=
  (s.cmd = some .tbRestart ∧ engineStep s = .next t) ∨ (s.schedule = [] ∧ exec .tbRestart s = .next t)

/-- TB_NOW takes its one atomic step (40_timebase.md R121), in the same two ways. -/
def nowStep (s t : State) : Prop :=
  (s.cmd = some .tbNow ∧ engineStep s = .next t) ∨ (s.schedule = [] ∧ exec .tbNow s = .next t)

/-- How many of the moves of a run are firings of the periodic timer interrupt (40_timebase.md R124, R125: a firing is
a `TB_ISR` step that is enabled, not a `TB_TICK`). -/
def timerFirings (ms : List Move) (s : State) : Nat :=
  match ms with
  | [] => 0
  | m :: rest =>
    (if m = .timerIrq ∧ timerIrqEnabled s = true then 1 else 0) +
      (match perform m s with
       | .next t => timerFirings rest t
       | .fault _ => 0
       | .refused _ => 0)

/-- The one thing the host does during a stall (20_memory.md R80). -/
def hostAnswersNothing (a : HostAction) : Bool := a == .readStatus

/-- The moves that can be taken during a stall and answer nothing (60_exceptions.md R208): the engine tries its wait
again, the timer ticks and its handler runs, the host reads `IF.STATUS`. -/
def answersNothing (m : Move) : Bool :=
  match m with
  | .engine => true
  | .tick => true
  | .timerIrq => true
  | .host a => hostAnswersNothing a
  | .env _ => false
  | .pumpIrq => false
  | .powerOn => false

/-- The command in progress stands at a `wait until` step whose condition does not hold (00_scope.md R9). -/
def waiting (s : State) : Bool :=
  match s.cmd with
  | some (.start _ _ .wait) => !s.bm.addressDone
  | some (.restart _ _ .wait) => !s.bm.addressDone
  | some (.scan _ .wait) => !s.bm.addressDone
  | some (.write _ .wait) => !s.bm.wif
  | some (.write _ .waitAck) => !s.bm.wif
  | some (.writeBytes _ _ _ .wait) => !s.bm.wif
  | some (.writeBytes _ _ _ .waitAck) => !s.bm.wif
  | some (.read .wait) => !s.bm.rif
  | some (.readLast .wait) => !s.bm.rif
  | _ => false

/-- The events by which an answer to an address byte shows on the trace (20_memory.md R67). -/
def answerEvents (x : AddrAnswer) : List BusEvent :=
  match x with
  | .ack => [.slave .ack]
  | .nak => [.slave .nak]
  | .arbLost => [.arbLost]
  | .busErr => [.busErr]
  | .arbLostAndBusErr => [.arbLost, .busErr]

/-- Does an answer set `BM.ARBLOST` (60_exceptions.md R206)? -/
def answerLosesArbitration (x : AddrAnswer) : Bool :=
  match x with
  | .arbLost => true
  | .arbLostAndBusErr => true
  | _ => false

/-- Does an answer set `BM.BUSERR` (60_exceptions.md R207)? -/
def answerIsBusError (x : AddrAnswer) : Bool :=
  match x with
  | .busErr => true
  | .arbLostAndBusErr => true
  | _ => false

/-- Failed probes of SCAN: after each answer the engine takes steps 3, 4, 5 and 2 (41_bus_address.md R145). -/
def probeMoves (xs : List AddrAnswer) : List Move :=
  xs.flatMap fun x => [.env (.addr x), .engine, .engine, .engine, .engine]

/-- What failed probes of the addresses from `a` on leave on the trace (41_bus_address.md R145). -/
def probeTrace (a : Nat) (xs : List AddrAnswer) : List BusEvent :=
  match xs with
  | [] => []
  | x :: rest =>
    [.start, .tx (addressByte (BitVec.ofNat 7 a) .write)] ++ answerEvents x ++ probeTrace (a + 1) rest

/-- `n` bytes of WRITE_BYTES that the slave acknowledges: after each answer the engine takes steps 6, 7, 8, 2, 3, 4
and 5 (42_bus_data.md R171). -/
def ackedByteMoves (n : Nat) : List Move :=
  (List.replicate n
    [.env (.data .ack), .engine, .engine, .engine, .engine, .engine, .engine, .engine]).flatten

/-- WRITE_BYTES from its issue: steps 1 to 5, then `n` bytes the slave acknowledges, then what follows. -/
def writeBytesMoves (n : Nat) (last : List Move) : List Move :=
  List.replicate 5 Move.engine ++ ackedByteMoves n ++ last

/-- What the bytes of host memory from an address on leave on the trace, with the slave's answer to each. -/
def sentTrace (s : State) (p : Word) (acks : List Ack) : List BusEvent :=
  match acks with
  | [] => []
  | a :: rest => .tx (memRead s p) :: .slave a :: sentTrace s (p + 1#32) rest

/-- The pump's firings that send, each followed by the slave's answer (43_bus_pump.md R191). -/
def pumpMoves (acks : List Ack) : List Move :=
  acks.flatMap fun a => [.pumpIrq, .env (.data a)]

/-- The host issues READ, and the engine takes its five steps (42_bus_data.md R172). -/
def issueRead : List Move := .host (.command (encode .read)) :: List.replicate 5 .engine

/-- READ calls with the byte that arrives after each (42_bus_data.md R172). -/
def readMoves (bs : List Byte) : List Move :=
  bs.flatMap fun b => issueRead ++ [.env (.recv b)]

end Sys2Proof.Machine
end

