-- ==== Sys2Proof/Certificates/Slice0/Obligations.lean ====
section
/-! DEFINITION. The statements for the provers, each from the rule of spec/ its comment names. Where a statement says
what a command does, its conclusion is the next state that `exec` answers; the steps that follow it (the engine's
numbered steps and the environment's answers) are taken by `performAll`, move by move, as `step` takes them. Where
nothing is scheduled `exec` has gone on with the numbered steps itself, up to the command's wait or its end (log 3), and
the engine's moves that take them otherwise then change nothing. -/

open Sys2Proof Sys2Proof.Machine

/-! ## Encoding -/

/-- 30_encoding.md R91, R92, R95: every command with every operand is read back from its word. -/
def Obligations.DecodeReadsBackEveryCommand : Prop :=
  ∀ i : Instr, decode (encode i) = .ok i

/-- 30_encoding.md R90, R91: a word that decodes is the word of its command, so no bit of it is dropped. -/
def Obligations.EncodeRebuildsEveryDecodedWord : Prop :=
  ∀ (w : Word) (i : Instr), decode w = .ok i → encode i = w

/-- 30_encoding.md R98: `decode(w)` is the row of the table with `w and mask = match`, or Illegal; the rows are
disjoint; the fields are cut as R92 says. -/
def Obligations.DecodeFollowsTheOpcodeTable : Prop :=
  (∀ (w : Word) (i : Instr), decode w = .ok i →
    ∃ r ∈ opcodeTable, r.mnemonic = mnemonicOf i ∧ w &&& r.mask = r.pattern) ∧
  (∀ (w : Word) (e : DecodeError), decode w = .error e → ∀ r ∈ opcodeTable, w &&& r.mask ≠ r.pattern) ∧
  opcodeTable.length = 13 ∧
  opcodeTable.Pairwise (fun r r' => ∀ w : Word, ¬(w &&& r.mask = r.pattern ∧ w &&& r'.mask = r'.pattern)) ∧
  (∀ (w : Word) (a : BusAddress) (n : Byte), decode w = .ok (.start a n) ∨ decode w = .ok (.restart a n) →
    a = w.extractLsb' 8 7 ∧ n = w.extractLsb' 0 8) ∧
  (∀ (w : Word) (b : Byte), decode w = .ok (.write b) → b = w.extractLsb' 0 8)

/-- 30_encoding.md R97: a word is illegal exactly if its opcode is reserved or a bit its format shows as 0 is not 0;
writing it sets `IF.CMDFAULT` and changes nothing else, whatever else goes on; no command touches that bit. -/
def Obligations.IllegalWordsOnlySetCmdfault : Prop :=
  (∀ w : Word, (∃ e, decode w = .error e) ↔ wellFormedWord w = false) ∧
  (∀ (s : State) (w : Word) (ms : List Move), s.schedule = .host (.command w) :: ms → wellFormedWord w = false →
    step s = .next { s with schedule := ms, ifc := { s.ifc with cmdfault := true } }) ∧
  (∀ (i : Instr) (s t : State), exec i s = .next t → t.ifc.cmdfault = s.ifc.cmdfault)

/-- 95_test_vectors.md V-ENC: words of every family written out from the encoding, and illegal ones. -/
def Obligations.VectorWordsDecode : Prop :=
  decode 0x01000000#32 = .ok .bmInit ∧
  decode 0x03003C00#32 = .ok (.start 0x3C#7 0#8) ∧
  decode 0x04005002#32 = .ok (.restart 0x50#7 2#8) ∧
  decode 0x050000FF#32 = .ok (.write 0xFF#8) ∧
  decode 0x07000000#32 = .ok .read ∧
  decode 0x0A000000#32 = .ok .writeAsync ∧
  decode 0x12000000#32 = .ok .tbRestart ∧
  decode 0x03008000#32 = .error .reservedBits ∧
  decode 0x09000001#32 = .error .reservedBits ∧
  decode 0x00000000#32 = .error .unknownOpcode

/-- 30_encoding.md R93, R94: the address byte is `{addr, d}`, numerically `2*addr + d`, with `d = 0` for Write and 1
for Read, `d` chosen by the read count; it is the first byte transmitted after the start condition of every address
phase that START, RESTART and SCAN put on the bus. Which value of `d` is which direction is the spec's own inference
("the two-wire bus convention [from general knowledge, not in source]", log 18). -/
def Obligations.AddressByteCarriesAddressAndDirection : Prop :=
  (∀ (a : BusAddress) (d : Direction),
    (addressByte a d).extractLsb' 1 7 = a ∧ (addressByte a d).extractLsb' 0 1 = directionBit d ∧
    (addressByte a d).toNat = 2 * a.toNat + (directionBit d).toNat) ∧
  (directionBit .write = 0#1 ∧ directionBit .read = 1#1) ∧
  (∀ n : Byte, directionBit (directionOfCount n) = if n ≠ 0#8 then 1#1 else 0#1) ∧
  (∀ (s : State) (a : BusAddress) (n : Byte) (i : Instr), i = .start a n ∨ i = .restart a n → admits i s = true →
    ∃ t u, exec i s = .next t ∧ performAll [.engine] t = .next u ∧
      u.trace = s.trace ++ [.start, .tx (addressByte a (directionOfCount n))]) ∧
  (∀ (s : State) (a : BusAddress), s.cmd = some (.scan a .probe) →
    ∃ t, engineStep s = .next t ∧ t.trace = s.trace ++ [.start, .tx (addressByte a .write)])

/-! ## The step -/

/-- 30_encoding.md R104, 20_memory.md R79: the step whose next move is the host's write of a command word runs exactly
that command, and a word placed by `withFetchWord` is the next one written (the form of a run is the model's: log 1,
5). -/
def Obligations.StepRunsTheDecodedCommand : Prop :=
  (∀ (s : State) (w : Word) (ms : List Move) (i : Instr),
    s.schedule = .host (.command w) :: ms → decode w = .ok i → step s = exec i { s with schedule := ms }) ∧
  (∀ (s : State) (w : Word) (i : Instr), decode w = .ok i → step (s.withFetchWord 32 w.toNat) = exec i s)

/-- 20_memory.md R80 as the model orders it (log 1, 3): a scheduled move is taken alone, and with none scheduled the
engine takes as many numbered steps as it can before it waits. -/
def Obligations.StepTakesTheNextMove : Prop :=
  (∀ (s : State) (m : Move) (ms : List Move), s.schedule = m :: ms → step s = perform m { s with schedule := ms }) ∧
  (∀ s : State, s.schedule = [] → step s = performAll (List.replicate 8 .engine) s) ∧
  (∀ s t : State, s.schedule = [] → step s = .next t → t.cmd = none ∨ waiting t = true)

/-- 10_state.md R47: the layout of `IF.STATUS`, and a read of it at any time, with no side effect on the block. -/
def Obligations.StatusShowsEveryField : Prop :=
  (∀ s : State,
    let w := statusWord s
    w.getLsbD 0 = s.bm.wif ∧ w.getLsbD 1 = s.bm.rif ∧ w.getLsbD 2 = decide (s.bm.rxack = .nak) ∧
    w.getLsbD 3 = s.bm.arblost ∧ w.getLsbD 4 = s.bm.buserr ∧
    w.extractLsb' 5 2 = (match s.bm.phase with | .idle => 0#2 | .address => 1#2 | .dataWrite => 2#2 | .dataRead => 3#2) ∧
    w.getLsbD 7 = decide (s.bm.dir = .read) ∧ w.getLsbD 8 = s.bm.en ∧ w.getLsbD 9 = s.bm.wie ∧
    w.getLsbD 10 = s.bm.pact ∧ w.getLsbD 11 = s.bm.pdone ∧
    w.extractLsb' 12 2 = (match s.bm.txmode with | .none => 0#2 | .polling => 1#2 | .pump => 2#2) ∧
    w.extractLsb' 14 2 = (match s.bm.inflight with | .none => 0#2 | .addr => 1#2 | .data => 2#2 | .recv => 3#2) ∧
    w.extractLsb' 16 8 = s.bm.rdcnt ∧ w.getLsbD 24 = s.tb.run ∧ w.getLsbD 25 = s.tb.pend ∧ w.getLsbD 26 = s.tb.ie ∧
    w.getLsbD 27 = s.ic.gie ∧ w.getLsbD 28 = s.ifc.cmdfault ∧ w.getLsbD 29 = decide (s.bm.ackact = .nak) ∧
    w.extractLsb' 30 2 = 0#2) ∧
  (∀ (s : State) (ms : List Move), s.schedule = .host .readStatus :: ms →
    step s = .next { s with schedule := ms, readout := statusWord s })

/-- 10_state.md R46: ARG0 and ARG1 are read and written, and RESULT read, while no command is in progress; otherwise
the host is blocked (log 14). -/
def Obligations.HostReachesItsRegistersBetweenCommands : Prop :=
  ∀ (s : State) (v : Word),
    (s.cmd = none →
      perform (.host (.writeArg0 v)) s = .next { s with ifc := { s.ifc with arg0 := v } } ∧
      perform (.host (.writeArg1 v)) s = .next { s with ifc := { s.ifc with arg1 := v } } ∧
      perform (.host .readArg0) s = .next { s with readout := s.ifc.arg0 } ∧
      perform (.host .readArg1) s = .next { s with readout := s.ifc.arg1 } ∧
      perform (.host .readResult) s = .next { s with readout := s.ifc.result }) ∧
    (s.cmd ≠ none → ∀ a ∈ [HostAction.writeArg0 v, .writeArg1 v, .readArg0, .readArg1, .readResult],
      perform (.host a) s = .refused .hostBlocked)

/-! ## Reset -/

/-- 10_state.md R55: every reset value the table gives. The fields it leaves unspecified are not stated. -/
def Obligations.ResetLeavesTheTableValues : Prop := State.reset.AtResetValues

/-- 70_reset_and_hazards.md R236: a reset is the only event that clears `IF.CMDFAULT`, `BM.EN`, `TB.RUN` and `TB.IE`,
and it puts no stop condition on the bus; after a power-on reset at any moment every value of the reset table stands
(10_state.md R55), the trace is empty and no command is in progress (R235). -/
def Obligations.OnlyResetClearsTheStickyBits : Prop :=
  (∀ (s t : State), step s = .next t → (∀ ms, s.schedule ≠ .powerOn :: ms) →
    (s.ifc.cmdfault = true → t.ifc.cmdfault = true) ∧ (s.bm.en = true → t.bm.en = true) ∧
    (s.tb.run = true → t.tb.run = true) ∧ (s.tb.ie = true → t.tb.ie = true)) ∧
  (∀ (s : State) (ms : List Move), s.schedule = .powerOn :: ms →
    ∃ t, step s = .next t ∧ t.AtResetValues ∧ t.schedule = ms)

/-! ## Admission -/

/-- 41_bus_address.md R140, 43_bus_pump.md R193, 30_encoding.md R104: a command has a next state exactly where the
table and its operands admit it, and is refused everywhere else; it never faults. Between commands of an enabled block
the phase Address always means an address phase that has ended in failure. -/
def Obligations.CommandsRunExactlyWhereAdmitted : Prop :=
  (∀ (i : Instr) (s : State),
    (admits i s = true → ∃ t, exec i s = .next t) ∧ (admits i s = false → ∃ r, exec i s = .refused r)) ∧
  (∀ s : State, s.Inv → s.cmd = none → s.bm.en = true → s.bm.phase = .address →
    s.bm.inflight = .none ∧ s.bm.addressAcked = false)

/-- 10_state.md R20: `BM.EN` is 0 at reset, written 1 by BM_INIT, cleared by no command, and while it is 0 every bus
command other than BM_INIT is refused. -/
def Obligations.BusMasterIsEnabledByInitOnly : Prop :=
  State.reset.bm.en = false ∧
  (∀ s : State, admits .bmInit s = true →
    ∃ t u, exec .bmInit s = .next t ∧ performAll [.engine] t = .next u ∧ u.bm.en = true) ∧
  (∀ (i : Instr) (s t : State), exec i s = .next t →
    (s.bm.en = true → t.bm.en = true) ∧ (i ≠ .bmInit → t.bm.en = s.bm.en)) ∧
  (∀ s t : State, engineStep s = .next t →
    (s.bm.en = true → t.bm.en = true) ∧ ((∀ hz ns, s.cmd ≠ some (.bmInit hz ns)) → t.bm.en = s.bm.en)) ∧
  (∀ (i : Instr) (s : State), s.bm.en = false → i ≠ .bmInit → isTimebaseCommand i = false →
    ∃ r, exec i s = .refused r)

/-- 43_bus_pump.md R193: while an asynchronous write is in progress every bus command is refused PumpActive and the
timebase commands and a read of `IF.STATUS` are not; within a transaction, that is until an address phase or STOP
resets `BM.TXMODE`, the strategies are not mixed. -/
def Obligations.PumpExcludesBusCommands : Prop :=
  (∀ (i : Instr) (s : State), s.cmd = none → s.bm.pact = true → isTimebaseCommand i = false →
    exec i s = .refused .pumpActive) ∧
  (∀ (s : State), s.cmd = none → s.bm.pact = true →
    (∃ t, exec .tbInit s = .next t) ∧ (∃ t, exec .tbRestart s = .next t) ∧
    (s.tb.run = true → ∃ t, exec .tbNow s = .next t) ∧
    (∃ t, perform (.host .readStatus) s = .next t)) ∧
  (∀ (s : State) (b : Byte), s.cmd = none → s.bm.pact = false → s.bm.en = true → s.bm.phase = .dataWrite →
    (s.bm.txmode = .pump → (∃ r, exec (.write b) s = .refused r) ∧ ∃ r, exec .writeBytes s = .refused r) ∧
    (s.bm.txmode = .polling → ∃ r, exec .writeAsync s = .refused r)) ∧
  (∀ (ab : Byte) (s : State), (busAddrPhase ab s).bm.txmode = .none) ∧
  (∀ s t : State, s.cmd = some .stop → engineStep s = .next t → t.bm.txmode = .none)

/-- 30_encoding.md R104 stage 2: while a command is in progress every other is refused Reentrant. -/
def Obligations.SecondCommandIsRefused : Prop :=
  ∀ (i : Instr) (s : State), s.cmd ≠ none → exec i s = .refused .reentrant

/-- 20_memory.md R61, 41_bus_address.md R141, 40_timebase.md R121: the operand conditions, each with the name of its
refusal, in a state that admits the command otherwise. -/
def Obligations.OperandConditionsRefuseByName : Prop :=
  (∀ (s : State) (i : Instr), i = .writeBytes ∨ i = .writeAsync → admits i { s with ifc := { s.ifc with arg1 := 0#32 } } = true →
    s.ifc.arg0.toNat + s.ifc.arg1.toNat > 2 ^ 32 → exec i s = .refused .rangeWraps) ∧
  (∀ s : State, admits .bmInit { s with ifc := { s.ifc with arg0 := 1#32 } } = true → s.ifc.arg0 = 0#32 →
    exec .bmInit s = .refused .zeroTargetClock) ∧
  (∀ s : State, s.cmd = none → s.tb.run = false → exec .tbNow s = .refused .timebaseNotInitialised)

/-! ## Timebase -/

/-- 40_timebase.md R120, R122: the one atomic step of TB_INIT and of TB_RESTART, in every state in which no command is
in progress. `TB.PEND` is 0 or keeps its value (a free value), and the period is the quotient up to rounding and a
minus one. -/
def Obligations.TimebaseStartsAtZero : Prop :=
  (∀ (s done : State) (i : Instr), i = .tbInit ∨ i = .tbRestart → s.cmd = none →
    done =
      { s with
        tb := { count := 0#32, run := true, pend := s.tb.pend && Config.freeBit s.draws, ie := true,
                period := timerPeriod }
        ic := { gie := true }
        ifc := { s.ifc with result := 0#32 }
        draws := s.draws + 1 } →
    (s.schedule = [] → exec i s = .next done) ∧
    ∃ t, exec i s = .next t ∧ performAll [.engine] t = .next done) ∧
  Config.coreHz / (Config.tbDiv * 1000) ≤ timerPeriod + 1 ∧
  timerPeriod ≤ Config.coreHz / (Config.tbDiv * 1000) + 1

/-- 40_timebase.md R121: TB_NOW writes the count to `IF.RESULT` and changes nothing else. -/
def Obligations.NowReturnsTheCount : Prop :=
  ∀ s done : State, s.cmd = none → s.tb.run = true →
    done = { s with ifc := { s.ifc with result := s.tb.count } } →
    (s.schedule = [] → exec .tbNow s = .next done) ∧
    ∃ t, exec .tbNow s = .next t ∧ performAll [.engine] t = .next done

/-- 40_timebase.md R123, R124: the tick and the handler, each where it is enabled. That a move which is not enabled
leaves the state as it is, but for the used-up move, is the model's choice (log 2). -/
def Obligations.TickAndTimerHandler : Prop :=
  ∀ (s : State) (ms : List Move),
    (s.schedule = .tick :: ms →
      (s.tb.run = true → step s = .next { s with schedule := ms, tb := { s.tb with pend := true } }) ∧
      (s.tb.run = false → step s = .next { s with schedule := ms })) ∧
    (s.schedule = .timerIrq :: ms →
      ((s.tb.pend = true ∧ s.tb.ie = true ∧ s.ic.gie = true) →
        step s = .next { s with schedule := ms, tb := { s.tb with count := s.tb.count + 1#32, pend := false } }) ∧
      (¬(s.tb.pend = true ∧ s.tb.ie = true ∧ s.ic.gie = true) → step s = .next { s with schedule := ms }))

/-- 40_timebase.md R125: from a restart, or from an earlier TB_NOW, TB_NOW returns the number of firings since, over
every run of moves that does not start the timebase anew. -/
def Obligations.NowCountsTheFirings : Prop :=
  ∀ (s t u v : State) (ms : List Move),
    ms.all keepsTimebase = true → performAll ms t = .next u → nowStep u v →
    (restartStep s t → v.ifc.result = BitVec.ofNat 32 (timerFirings ms t)) ∧
    (nowStep s t → t.tb = s.tb ∧ v.ifc.result = t.ifc.result + BitVec.ofNat 32 (timerFirings ms t))

/-- 10_state.md R40 to R45: everything that writes the timebase or `IC.GIE`. At reset `TB.RUN`, `TB.IE` and `IC.GIE` are
0; TB_INIT and TB_RESTART write all three 1 and `TB.COUNT` 0 when they take their one step; every step of the machine
leaves the timebase and `IC.GIE` as they are, or is an enabled tick, an enabled firing of the timer's handler, the step
of one of those two commands, or a power-on reset. That a tick without `TB.RUN` and either handler without `IC.GIE`
leaves the state as it is, is the model's choice (log 2). -/
def Obligations.TimebaseAndInterruptEnableWriters : Prop :=
  (State.reset.tb.run = false ∧ State.reset.tb.ie = false ∧ State.reset.ic.gie = false) ∧
  (∀ s : State, s.cmd = some .tbInit ∨ s.cmd = some .tbRestart →
    ∃ t, engineStep s = .next t ∧ t.cmd = none ∧
      t.tb.count = 0#32 ∧ t.tb.run = true ∧ t.tb.ie = true ∧ t.ic.gie = true ∧ t.tb.period = timerPeriod ∧
      (t.tb.pend = false ∨ t.tb.pend = s.tb.pend)) ∧
  (∀ (s t : State), step s = .next t →
    (t.tb = s.tb ∧ t.ic = s.ic) ∨
    (∃ ms, s.schedule = .tick :: ms ∧ s.tb.run = true ∧ t.tb = { s.tb with pend := true } ∧ t.ic = s.ic) ∨
    (∃ ms, s.schedule = .timerIrq :: ms ∧ timerIrqEnabled s = true ∧
      t.tb = { s.tb with count := s.tb.count + 1#32, pend := false } ∧ t.ic = s.ic) ∨
    ((s.cmd = some .tbInit ∨ s.cmd = some .tbRestart ∨
        ∃ w, s.schedule = [.host (.command w)] ∧ (decode w = .ok .tbInit ∨ decode w = .ok .tbRestart)) ∧
      t.tb.count = 0#32 ∧ t.tb.run = true ∧ t.tb.ie = true ∧ t.ic.gie = true ∧ t.tb.period = timerPeriod ∧
      (t.tb.pend = false ∨ t.tb.pend = s.tb.pend)) ∨
    (∃ ms, s.schedule = .powerOn :: ms)) ∧
  (∀ s : State, s.tb.run = false → perform .tick s = .next s) ∧
  (∀ s : State, s.ic.gie = false → perform .timerIrq s = .next s ∧ perform .pumpIrq s = .next s)

/-- The frame of TB_INIT, TB_RESTART and TB_NOW, from issue to completion (40_timebase.md R120, R121): no bus state, no
memory, no event. -/
def Obligations.TimebaseCommandsLeaveTheBusAlone : Prop :=
  ∀ (s t u : State) (i : Instr) (n : Nat), exec i s = .next t → performAll (List.replicate n .engine) t = .next u →
    (i = .tbInit ∨ i = .tbRestart →
      u = { s with
        tb := u.tb, ic := u.ic, ifc := { s.ifc with result := u.ifc.result }, draws := u.draws, cmd := u.cmd }) ∧
    (i = .tbNow → u = { s with ifc := { s.ifc with result := u.ifc.result }, cmd := u.cmd }) ∧
    (i = .tbInit ∨ i = .tbRestart ∨ i = .tbNow → ∀ a : Word, memRead u a = memRead s a)

/-! ## Setup, address phase, stop -/

/-- 41_bus_address.md R141: the one atomic step of BM_INIT. -/
def Obligations.BmInitSetsBusIdle : Prop :=
  ∀ s done : State, admits .bmInit s = true →
    done =
      { s with
        bm := { s.bm with
          baud := Config.baudOf Config.coreHz s.ifc.arg0.toNat s.ifc.arg1.toNat, en := true, phase := .idle,
          inflight := .none, txmode := .none, wif := false, rif := false, arblost := false, buserr := false,
          wie := false, pact := false }
        ifc := { s.ifc with result := 0#32 } } →
    (s.schedule = [] → exec .bmInit s = .next done) ∧
    ∃ t, exec .bmInit s = .next t ∧ performAll [.engine] t = .next done

/-- The frame of BM_INIT, from issue to completion (41_bus_address.md R141 "State written"). -/
def Obligations.BmInitFrame : Prop :=
  ∀ (s t u : State) (n : Nat), exec .bmInit s = .next t → performAll (List.replicate n .engine) t = .next u →
    u = { s with
      bm := { s.bm with
        baud := u.bm.baud, en := u.bm.en, phase := u.bm.phase, inflight := u.bm.inflight, txmode := u.bm.txmode,
        wif := u.bm.wif, rif := u.bm.rif, arblost := u.bm.arblost, buserr := u.bm.buserr, wie := u.bm.wie,
        pact := u.bm.pact }
      ifc := { s.ifc with result := u.ifc.result }
      cmd := u.cmd } ∧
    ∀ a : Word, memRead u a = memRead s a

/-- 41_bus_address.md R142 step 1, R143, 20_memory.md R66: START and RESTART issue one address phase, record the read
counter in read direction only, and wait for its end. -/
def Obligations.StartIssuesOneAddressPhase : Prop :=
  ∀ (s wait : State) (a : BusAddress) (n : Byte) (i : Instr) (c : Command),
    (i = .start a n ∧ c = .start a n .wait) ∨ (i = .restart a n ∧ c = .restart a n .wait) → admits i s = true →
    wait =
      { s with
        bm := { s.bm with
          rdcnt := if n = 0#8 then s.bm.rdcnt else n
          wif := false, rif := false, arblost := false, buserr := false, phase := .address,
          dir := if n = 0#8 then .write else .read
          txmode := .none, inflight := .addr }
        trace := s.trace ++ [.start, .tx (a ++ (if n = 0#8 then 0#1 else 1#1))]
        cmd := some c } →
    (s.schedule = [] → exec i s = .next wait) ∧
    ∃ t, exec i s = .next t ∧ performAll [.engine] t = .next wait

/-- 41_bus_address.md R142, R143, 60_exceptions.md R205 to R207: START and RESTART in write direction, to completion,
for every answer of the environment. -/
def Obligations.WriteDirectionStartOutcomes : Prop :=
  ∀ (s : State) (a : BusAddress) (i : Instr), i = .start a 0#8 ∨ i = .restart a 0#8 → admits i s = true →
    ∃ t, exec i s = .next t ∧ ∀ x : AddrAnswer,
      ∃ u, performAll [.engine, .env (.addr x), .engine, .engine] t = .next u ∧ u.cmd = none ∧
        u.ifc.result = (if x = .ack then 1#32 else 0#32) ∧
        u.bm.phase = (if x = .ack then .dataWrite else .address) ∧
        u.bm.wif = true ∧ u.bm.rif = false ∧ u.bm.inflight = .none ∧ u.bm.rdcnt = s.bm.rdcnt ∧
        (x = .ack → u.bm.rxack = .ack) ∧ (x = .nak → u.bm.rxack = .nak) ∧
        u.bm.arblost = answerLosesArbitration x ∧ u.bm.buserr = answerIsBusError x ∧
        u.trace = s.trace ++ [.start, .tx (addressByte a .write)] ++ answerEvents x

/-- 41_bus_address.md R142, R143, D10: START and RESTART in read direction, to completion: acknowledged, with the first
byte received, or failed. -/
def Obligations.ReadDirectionStartOutcomes : Prop :=
  ∀ (s : State) (a : BusAddress) (n : Byte) (i : Instr), i = .start a n ∨ i = .restart a n → n ≠ 0#8 →
    admits i s = true →
    ∃ t, exec i s = .next t ∧
      (∀ b : Byte, ∃ u,
        performAll [.engine, .env (.addr .ack), .env (.recv b), .engine, .engine] t = .next u ∧ u.cmd = none ∧
        u.ifc.result = 1#32 ∧ u.bm.phase = .dataRead ∧ u.bm.wif = false ∧ u.bm.rif = true ∧ u.bm.data = b ∧
        u.bm.rdcnt = n ∧ u.bm.inflight = .none ∧
        u.trace = s.trace ++ [.start, .tx (addressByte a .read), .slave .ack, .rx b]) ∧
      (∀ x : AddrAnswer, x ≠ .ack → ∃ u,
        performAll [.engine, .env (.addr x), .engine, .engine] t = .next u ∧ u.cmd = none ∧ u.ifc.result = 0#32 ∧
        u.bm.phase = .address ∧ u.bm.wif = true ∧ u.bm.rif = false ∧ u.bm.rdcnt = n ∧
        (x = .nak → u.bm.rxack = .nak) ∧
        u.bm.arblost = answerLosesArbitration x ∧ u.bm.buserr = answerIsBusError x ∧
        u.trace = s.trace ++ [.start, .tx (addressByte a .read)] ++ answerEvents x)

/-- 41_bus_address.md R145: SCAN returns the first address that acknowledges, having probed the lower ones in ascending
order without a stop, whatever made each of them fail; with none it returns 0. `BM.RDCNT` is not written. The first two
engine moves are steps 1 and 2, the first probe. -/
def Obligations.ScanFindsTheFirstAddress : Prop :=
  ∀ (s : State) (xs : List AddrAnswer), admits .scan s = true → (∀ x ∈ xs, x ≠ .ack) →
    ∃ t, exec .scan s = .next t ∧
      (xs.length < 128 → ∃ u,
        performAll (.engine :: .engine :: probeMoves xs ++ [.env (.addr .ack), .engine, .engine]) t = .next u ∧ u.cmd = none ∧
        u.ifc.result = BitVec.ofNat 32 (0x100 + xs.length) ∧ u.bm.phase = .dataWrite ∧ u.bm.wif = true ∧
        u.bm.rdcnt = s.bm.rdcnt ∧
        u.trace = s.trace ++ probeTrace 0 xs ++
          [.start, .tx (addressByte (BitVec.ofNat 7 xs.length) .write), .slave .ack]) ∧
      (xs.length = 128 → ∃ u,
        performAll (.engine :: .engine :: probeMoves xs) t = .next u ∧ u.cmd = none ∧ u.ifc.result = 0#32 ∧
        u.bm.phase = .address ∧ u.bm.rdcnt = s.bm.rdcnt ∧ u.trace = s.trace ++ probeTrace 0 xs)

/-- The frame of START, RESTART and SCAN, from issue to the wait for the environment (41_bus_address.md R142, R145). -/
def Obligations.AddressCommandsFrame : Prop :=
  ∀ (s t u : State) (i : Instr) (n : Nat), exec i s = .next t → performAll (List.replicate n .engine) t = .next u →
    (i = .scan ∨ ∃ a k, i = .start a k ∨ i = .restart a k) →
    u = { s with
      bm := { s.bm with
        rdcnt := u.bm.rdcnt, wif := u.bm.wif, rif := u.bm.rif, arblost := u.bm.arblost, buserr := u.bm.buserr,
        phase := u.bm.phase, dir := u.bm.dir, txmode := u.bm.txmode, inflight := u.bm.inflight }
      trace := u.trace
      cmd := u.cmd } ∧
    (i = .scan → u.bm.rdcnt = s.bm.rdcnt) ∧
    (∀ a, i = .start a 0#8 ∨ i = .restart a 0#8 → u.bm.rdcnt = s.bm.rdcnt) ∧
    s.trace <+: u.trace ∧
    ∀ a : Word, memRead u a = memRead s a

/-- 41_bus_address.md R144, 20_memory.md R71: STOP returns the bus to idle in one step that waits for nothing, and puts
`P` on the bus exactly if this master holds it (10_state.md R38). -/
def Obligations.StopReturnsToIdle : Prop :=
  ∀ s done : State, admits .stop s = true →
    done =
      { s with
        bm := { s.bm with
          phase := .idle, inflight := .none, txmode := .none, wif := false, rif := false, arblost := false,
          buserr := false }
        ifc := { s.ifc with result := 0#32 }
        trace := s.trace ++
          (if s.bm.phase ≠ .idle ∧ s.bm.arblost = false ∧ s.bm.buserr = false ∧ s.bm.inflight ≠ .addr
           then [.stop] else []) } →
    (s.schedule = [] → exec .stop s = .next done) ∧
    ∃ t, exec .stop s = .next t ∧ performAll [.engine] t = .next done

/-- The frame of STOP, from issue to completion (41_bus_address.md R144 "State written"). -/
def Obligations.StopFrame : Prop :=
  ∀ (s t u : State) (n : Nat), exec .stop s = .next t → performAll (List.replicate n .engine) t = .next u →
    u = { s with
      bm := { s.bm with
        phase := u.bm.phase, inflight := u.bm.inflight, txmode := u.bm.txmode, wif := u.bm.wif, rif := u.bm.rif,
        arblost := u.bm.arblost, buserr := u.bm.buserr }
      ifc := { s.ifc with result := u.ifc.result }
      trace := u.trace
      cmd := u.cmd } ∧
    s.trace <+: u.trace ∧
    ∀ a : Word, memRead u a = memRead s a

/-! ## Environment -/

/-- 20_memory.md R67: the five answers to an address byte. `BM.RXACK` after a lost bus is a free value. -/
def Obligations.EnvironmentAnswersAnAddressByte : Prop :=
  ∀ (s : State) (ms : List Move) (x : AddrAnswer) (drawn : Ack),
    s.schedule = .env (.addr x) :: ms → s.bm.inflight = .addr →
    drawn = (if Config.freeBit s.draws then .nak else .ack) →
    (x = .ack → s.bm.dir = .write → step s = .next
      { s with
        schedule := ms, trace := s.trace ++ [.slave .ack]
        bm := { s.bm with rxack := .ack, phase := .dataWrite, inflight := .none, wif := true } }) ∧
    (x = .ack → s.bm.dir = .read → step s = .next
      { s with
        schedule := ms, trace := s.trace ++ [.slave .ack]
        bm := { s.bm with rxack := .ack, phase := .dataRead, inflight := .recv } }) ∧
    (x = .nak → step s = .next
      { s with
        schedule := ms, trace := s.trace ++ [.slave .nak]
        bm := { s.bm with rxack := .nak, inflight := .none, wif := true } }) ∧
    (x = .arbLost → step s = .next
      { s with
        schedule := ms, trace := s.trace ++ [.arbLost], draws := s.draws + 1
        bm := { s.bm with rxack := drawn, arblost := true, inflight := .none, wif := true } }) ∧
    (x = .busErr → step s = .next
      { s with
        schedule := ms, trace := s.trace ++ [.busErr], draws := s.draws + 1
        bm := { s.bm with rxack := drawn, buserr := true, inflight := .none, wif := true } }) ∧
    (x = .arbLostAndBusErr → step s = .next
      { s with
        schedule := ms, trace := s.trace ++ [.arbLost, .busErr], draws := s.draws + 1
        bm := { s.bm with
          rxack := drawn, arblost := true, buserr := true, inflight := .none, wif := true } })

/-- 20_memory.md R68, R69: a byte is received; a data byte is sent, which requires DataWrite and the write condition,
and is answered; `BM.PHASE` stays as it is after either answer. -/
def Obligations.EnvironmentCompletesDataTransfers : Prop :=
  (∀ (s : State) (ms : List Move) (b : Byte), s.schedule = .env (.recv b) :: ms → s.bm.inflight = .recv →
    step s = .next
      { s with
        schedule := ms, trace := s.trace ++ [.rx b]
        bm := { s.bm with data := b, inflight := .none, rif := true } }) ∧
  (∀ (s : State) (b : Byte), s.bm.phase = .dataWrite → s.bm.wif = true →
    busSendData b s = .next
      { s with
        trace := s.trace ++ [.tx b]
        bm := { s.bm with data := b, wif := false, inflight := .data } }) ∧
  (∀ (s : State) (ms : List Move) (a : Ack), s.schedule = .env (.data a) :: ms → s.bm.inflight = .data →
    step s = .next
      { s with
        schedule := ms, trace := s.trace ++ [.slave a]
        bm := { s.bm with rxack := a, inflight := .none, wif := true } })

/-- 20_memory.md R65, D33: a bus lost inside a transaction and outside an address phase has no meaning. That "inside a
transaction" is a phase other than Idle is the model's reading (log 16). -/
def Obligations.BusFailureElsewhereIsRefused : Prop :=
  ∀ (s : State) (ms : List Move) (x : AddrAnswer), s.schedule = .env (.addr x) :: ms → x ≠ .ack → x ≠ .nak →
    s.bm.inflight ≠ .addr → s.bm.phase ≠ .idle → step s = .refused .busFailureOutsideAddressPhase

/-! ## Data -/

/-- 42_bus_data.md R170: WRITE transmits its byte and, when the slave has answered, returns whether it was
acknowledged; `BM.PHASE` stays DataWrite and the controller is ready again either way (D13). The first three engine
moves are steps 1 to 3. -/
def Obligations.WriteTransmitsAndReports : Prop :=
  ∀ (s sent : State) (b : Byte), admits (.write b) s = true → s.bm.wif = true →
    sent = { s with
      bm := { s.bm with txmode := .polling, data := b, wif := false, inflight := .data }
      trace := s.trace ++ [.tx b]
      cmd := some (.write b .waitAck) } →
    (s.schedule = [] → exec (.write b) s = .next sent) ∧
    (∃ t, exec (.write b) s = .next t ∧ performAll [.engine, .engine, .engine] t = .next sent) ∧
    ∀ a : Ack, performAll [.env (.data a), .engine, .engine] sent = .next
      { s with
        bm := { s.bm with txmode := .polling, data := b, rxack := a, wif := true, inflight := .none }
        ifc := { s.ifc with result := if a = .ack then 1#32 else 0#32 }
        trace := s.trace ++ [.tx b, .slave a] }

/-- 42_bus_data.md R171: WRITE_BYTES stops at the first NAK with result 0, having sent exactly the bytes up to it, and
returns 1 only when every byte was acknowledged; the empty range returns 1 and does nothing. -/
def Obligations.WriteBytesStopsAtTheFirstNak : Prop :=
  ∀ (s : State) (n : Nat), admits .writeBytes s = true → s.bm.wif = true →
    ∃ t, exec .writeBytes s = .next t ∧
      (s.ifc.arg1 = 0#32 →
        performAll [.engine, .engine] t = .next { s with ifc := { s.ifc with result := 1#32 } }) ∧
      (n < s.ifc.arg1.toNat →
        (∃ u, performAll (writeBytesMoves n [.env (.data .nak), .engine, .engine]) t = .next u ∧ u.cmd = none ∧
          u.ifc.result = 0#32 ∧ u.bm.phase = .dataWrite ∧ u.bm.wif = true ∧ u.bm.txmode = .polling ∧
          u.trace = s.trace ++ sentTrace s s.ifc.arg0 (List.replicate n Ack.ack ++ [Ack.nak])) ∧
        (n + 1 = s.ifc.arg1.toNat →
          ∃ u, performAll (writeBytesMoves n [.env (.data .ack), .engine, .engine, .engine, .engine]) t = .next u ∧
            u.cmd = none ∧ u.ifc.result = 1#32 ∧ u.bm.phase = .dataWrite ∧ u.bm.wif = true ∧
            u.bm.txmode = .polling ∧
            u.trace = s.trace ++ sentTrace s s.ifc.arg0 (List.replicate (n + 1) Ack.ack)))

/-- The frame of WRITE and WRITE_BYTES, from issue to the wait for the slave (42_bus_data.md R170, R171 "State
written"). -/
def Obligations.WriteCommandsFrame : Prop :=
  ∀ (s t u : State) (i : Instr) (n : Nat), exec i s = .next t → performAll (List.replicate n .engine) t = .next u →
    (i = .writeBytes ∨ ∃ b, i = .write b) →
    u = { s with
      bm := { s.bm with
        txmode := u.bm.txmode, data := u.bm.data, wif := u.bm.wif, inflight := u.bm.inflight }
      ifc := { s.ifc with result := u.ifc.result }
      trace := u.trace
      cmd := u.cmd } ∧
    (i ≠ .writeBytes → u.ifc = s.ifc) ∧
    s.trace <+: u.trace ∧
    ∀ a : Word, memRead u a = memRead s a

/-- 42_bus_data.md R172: READ with a byte received: the counter goes down by one and not below 0, then the byte is
acknowledged with ACK while the counter is not 0 and with NAK when it is, and the byte is the result. -/
def Obligations.ReadTakesTheByteAndAcknowledges : Prop :=
  ∀ s done : State, admits .read s = true → s.bm.rif = true →
    done =
      (if s.bm.rdcnt.toNat ≤ 1 then
        { s with
          bm := { s.bm with rdcnt := 0#8, ackact := .nak, rif := false, inflight := .none }
          ifc := { s.ifc with result := s.bm.data.zeroExtend 32 }
          trace := s.trace ++ [.master .nak] }
      else
        { s with
          bm := { s.bm with rdcnt := s.bm.rdcnt - 1#8, ackact := .ack, rif := false, inflight := .recv }
          ifc := { s.ifc with result := s.bm.data.zeroExtend 32 }
          trace := s.trace ++ [.master .ack] }) →
    (s.schedule = [] → exec .read s = .next done) ∧
    ∃ t, exec .read s = .next t ∧ performAll (List.replicate 5 .engine) t = .next done

/-- 42_bus_data.md R172 step 1 and corner case c, R173 step 2 and corner case b: READ and READ_LAST with no byte received
stand at their wait, however often the engine tries it, with nothing else changed but READ_LAST's zeroed counter: so
after the NAK that ended a read, when nothing is in flight and none of them ever completes. Where a byte is in flight
they go on when it arrives. -/
def Obligations.ReadWaitsForTheByte : Prop :=
  ∀ (s : State) (b : Byte) (n : Nat), admits .read s = true → s.bm.rif = false →
    (∃ t, exec .read s = .next t ∧ t = { s with cmd := some (.read .wait) } ∧
      performAll (List.replicate n .engine) t = .next t ∧
      (s.bm.inflight = .recv →
        ∃ u, performAll (.env (.recv b) :: List.replicate 5 .engine) t = .next u ∧ u.cmd = none ∧
          u.ifc.result = b.zeroExtend 32 ∧ u.bm.rdcnt = countDown s.bm.rdcnt ∧
          u.trace = s.trace ++ [.rx b, .master (if 1 < s.bm.rdcnt.toNat then .ack else .nak)])) ∧
    (∃ t w, exec .readLast s = .next t ∧ performAll [.engine] t = .next w ∧ (s.schedule = [] → t = w) ∧
      w = { s with bm := { s.bm with rdcnt := 0#8 }, cmd := some (.readLast .wait) } ∧
      performAll (List.replicate n .engine) w = .next w ∧
      (s.bm.inflight = .recv →
        ∃ u, performAll (.env (.recv b) :: List.replicate 5 .engine) w = .next u ∧ u.cmd = none ∧
          u.ifc.result = b.zeroExtend 32 ∧ u.bm.rdcnt = 0#8 ∧ u.trace = s.trace ++ [.rx b, .master .nak]))

/-- 42_bus_data.md R173: READ_LAST ends the read with a NAK whatever the counter held. -/
def Obligations.ReadLastAlwaysSendsNak : Prop :=
  ∀ s done : State, admits .readLast s = true → s.bm.rif = true →
    done = { s with
      bm := { s.bm with rdcnt := 0#8, ackact := .nak, rif := false, inflight := .none }
      ifc := { s.ifc with result := s.bm.data.zeroExtend 32 }
      trace := s.trace ++ [.master .nak] } →
    (s.schedule = [] → exec .readLast s = .next done) ∧
    ∃ t, exec .readLast s = .next t ∧ performAll (List.replicate 6 .engine) t = .next done

/-- 42_bus_data.md R172 corner case f: for a read count N the N calls of READ issue ACK on calls 1 to N-1 and NAK exactly
on call N. `bs` are the bytes that arrive after the first. -/
def Obligations.ReadsAcknowledgeAllButTheLast : Prop :=
  ∀ (s : State) (bs : List Byte), admits .read s = true → s.bm.rif = true → s.bm.rdcnt.toNat = bs.length + 1 →
    ∃ u, performAll (readMoves bs ++ issueRead) s = .next u ∧ u.cmd = none ∧ u.bm.rdcnt = 0#8 ∧
      u.bm.rif = false ∧ u.bm.inflight = .none ∧
      u.ifc.result = (bs.getLastD s.bm.data).zeroExtend 32 ∧
      u.trace = s.trace ++ (bs.flatMap fun b => [.master .ack, .rx b]) ++ [.master .nak]

/-- The frame of READ and READ_LAST, from issue to completion or to the wait for a byte (42_bus_data.md R172, R173 "State
written"). -/
def Obligations.ReadCommandsFrame : Prop :=
  ∀ (s t u : State) (i : Instr) (n : Nat), exec i s = .next t → performAll (List.replicate n .engine) t = .next u →
    i = .read ∨ i = .readLast →
    u = { s with
      bm := { s.bm with
        rdcnt := u.bm.rdcnt, ackact := u.bm.ackact, rif := u.bm.rif, inflight := u.bm.inflight }
      ifc := { s.ifc with result := u.ifc.result }
      trace := u.trace
      cmd := u.cmd } ∧
    s.trace <+: u.trace ∧
    ∀ a : Word, memRead u a = memRead s a

/-- 10_state.md R24, 42_bus_data.md R174: only a read-direction START or RESTART raises the read counter. -/
def Obligations.OnlyReadDirectionStartsRaiseTheCounter : Prop :=
  ∀ (s t : State), step s = .next t → s.bm.rdcnt < t.bm.rdcnt →
    (∃ w ms a n, s.schedule = .host (.command w) :: ms ∧
      (decode w = .ok (.start a n) ∨ decode w = .ok (.restart a n)) ∧ n ≠ 0#8 ∧ t.bm.rdcnt = n) ∨
    (∃ a n, n ≠ 0#8 ∧ t.bm.rdcnt = n ∧ (s.cmd = some (.start a n .issue) ∨ s.cmd = some (.restart a n .issue)))

/-! ## Byte pump -/

/-- 43_bus_pump.md R190: WRITE_ASYNC arms the pump in one atomic step and puts nothing on the bus. -/
def Obligations.WriteAsyncArmsThePump : Prop :=
  ∀ s done : State, admits .writeAsync s = true →
    done =
      { s with
        bm := { s.bm with
          cur := s.ifc.arg0, fin := BitVec.ofNat 32 (s.ifc.arg0.toNat + s.ifc.arg1.toNat), pdone := false,
          pact := true, txmode := .pump, wie := true }
        ifc := { s.ifc with result := 0#32 } } →
    (s.schedule = [] → exec .writeAsync s = .next done) ∧
    ∃ t, exec .writeAsync s = .next t ∧ performAll [.engine] t = .next done

/-- The frame of WRITE_ASYNC, from issue to completion (43_bus_pump.md R190 "State written"). -/
def Obligations.WriteAsyncFrame : Prop :=
  ∀ (s t u : State) (n : Nat), exec .writeAsync s = .next t → performAll (List.replicate n .engine) t = .next u →
    u = { s with
      bm := { s.bm with
        cur := u.bm.cur, fin := u.bm.fin, pdone := u.bm.pdone, pact := u.bm.pact, txmode := u.bm.txmode,
        wie := u.bm.wie }
      ifc := { s.ifc with result := u.ifc.result }
      cmd := u.cmd } ∧
    ∀ a : Word, memRead u a = memRead s a

/-- 43_bus_pump.md R191: one firing of the write-ready interrupt, in every state that meets the machine's invariant. The
third clause, that a firing which is not enabled leaves the state as it is but for the used-up move, is the model's
choice (log 2). -/
def Obligations.PumpFiringSendsOrFinishes : Prop :=
  ∀ (s : State) (ms : List Move), s.schedule = .pumpIrq :: ms → s.Inv →
    ((s.bm.wif = true ∧ s.bm.wie = true ∧ s.ic.gie = true ∧ s.bm.cur ≠ s.bm.fin) →
      step s = .next
        { s with
          schedule := ms
          bm := { s.bm with
            cur := s.bm.cur + 1#32, data := memRead s s.bm.cur, wif := false, inflight := .data }
          trace := s.trace ++ [.tx (memRead s s.bm.cur)] }) ∧
    ((s.bm.wif = true ∧ s.bm.wie = true ∧ s.ic.gie = true ∧ s.bm.cur = s.bm.fin) →
      step s = .next { s with schedule := ms, bm := { s.bm with pdone := true, pact := false, wie := false } }) ∧
    (¬(s.bm.wif = true ∧ s.bm.wie = true ∧ s.ic.gie = true) → step s = .next { s with schedule := ms })

/-- 43_bus_pump.md R190, R191, R192: an asynchronous write of `len` bytes sends them in ascending order, one a firing,
whatever the slave answers, and is marked complete by firing `len + 1` and by none before it. -/
def Obligations.PumpSendsTheWholeRange : Prop :=
  ∀ (s : State) (acks : List Ack), admits .writeAsync s = true → s.bm.wif = true → s.ic.gie = true →
    acks.length = s.ifc.arg1.toNat →
    ∃ t u v, exec .writeAsync s = .next t ∧
      performAll (.engine :: pumpMoves acks) t = .next u ∧ u.bm.pdone = false ∧ u.bm.pact = true ∧
      performAll (.engine :: pumpMoves acks ++ [.pumpIrq]) t = .next v ∧ v.bm.pdone = true ∧ v.bm.pact = false ∧
      v.bm.wie = false ∧ v.bm.wif = true ∧ v.bm.cur = v.bm.fin ∧ v.bm.phase = .dataWrite ∧
      v.trace = s.trace ++ sentTrace s s.ifc.arg0 acks

/-! ## The whole machine -/

/-- 10_state.md R37, 41_bus_address.md R146, 42_bus_data.md R174: the invariant of the machine is kept by every step. R37
speaks of the rules of the commands; that a power-on reset keeps it too rests on the model's own reset values of
`BM.PHASE` and `BM.DIR` (log 6). -/
def Obligations.EveryStepKeepsTheInvariant : Prop :=
  ∀ s t : State, s.Inv → step s = .next t → t.Inv

/-- The invariant holds at reset. It rests on the model's own reset values of `BM.PHASE`, `BM.DIR` and `BM.RXACK`
(log 6). -/
def Obligations.ResetMeetsTheInvariant : Prop := State.reset.Inv

/-- 20_memory.md R69, R70: what the bus primitives require holds wherever a command or the pump uses them, so no step
from a state that meets the invariant faults. Where it does not hold they fault by name: the model's choice (log 17). -/
def Obligations.NoStepFaults : Prop :=
  (∀ (s : State) (f : Fault), s.Inv → step s ≠ .fault f) ∧
  (∀ (s : State) (b : Byte), ¬(s.bm.phase = .dataWrite ∧ s.bm.wif = true) →
    busSendData b s = .fault .sendRequirement) ∧
  (∀ s : State, ¬(s.bm.phase = .dataRead ∧ s.bm.rif = true) →
    busAckAndReceive s = .fault .ackRequirement ∧ busNak s = .fault .ackRequirement)

/-- 41_bus_address.md R146, 42_bus_data.md R174: on every run each data byte has, since the last `S`, an acknowledged
address byte of its direction before it, and a read has the shape R174 gives. -/
def Obligations.TraceKeepsTheProtocol : Prop :=
  ∀ (s t : State) (n : Nat), s.Inv → Host.Core.run Sys2Proof.core n s = .next t → traceLegal t.trace = true

/-- 41_bus_address.md R146: `BM.PHASE` becomes DataWrite or DataRead only where the environment acknowledges an address
byte; START, RESTART and SCAN return true exactly then; every data command is refused outside those two phases; and on
the trace of every state that meets the invariant a data byte follows an acknowledged address byte. That a power-on reset
enters neither phase rests on the model's own reset value of `BM.PHASE` (log 6). -/
def Obligations.DataPhaseNeedsAnAcknowledgedAddress : Prop :=
  (∀ s t : State, step s = .next t → t.bm.phase = .dataWrite ∨ t.bm.phase = .dataRead → t.bm.phase ≠ s.bm.phase →
    ∃ ms, s.schedule = .env (.addr .ack) :: ms ∧ s.bm.inflight = .addr) ∧
  (∀ (s t : State) (a : BusAddress) (n : Byte), s.Inv →
    s.cmd = some (.start a n .form) ∨ s.cmd = some (.restart a n .form) → engineStep s = .next t →
    (t.ifc.result = 1#32 ↔ t.bm.phase = .dataWrite ∨ t.bm.phase = .dataRead)) ∧
  (∀ (s t : State) (a : BusAddress), s.Inv → s.cmd = some (.scan a .test) → engineStep s = .next t →
    (t.cmd = none ↔ t.bm.phase = .dataWrite)) ∧
  (∀ (s t : State) (i : Instr), exec i s = .next t →
    (i = .writeBytes ∨ i = .writeAsync ∨ (∃ b, i = .write b) → s.bm.phase = .dataWrite) ∧
    (i = .read ∨ i = .readLast → s.bm.phase = .dataRead)) ∧
  (∀ s : State, s.Inv → traceLegal s.trace = true)

/-- 60_exceptions.md R208: an Indefinite Stall. While nothing answers, the command stays in progress and a further command
is refused; the whole state stays as it is, but for the counter and the pending tick of the timebase and the word the
host last read. -/
def Obligations.StallChangesNothing : Prop :=
  ∀ (s t : State) (ms : List Move), waiting s = true → ms.all answersNothing = true → performAll ms s = .next t →
    t = { s with
      tb := { s.tb with count := s.tb.count + BitVec.ofNat 32 (timerFirings ms s), pend := t.tb.pend }
      readout := t.readout } ∧
    waiting t = true ∧ ∀ i : Instr, exec i t = .refused .reentrant

/-- 60_exceptions.md R214 a: the two handlers write disjoint state, so either order reaches the same state. -/
def Obligations.HandlersCommute : Prop :=
  ∀ s : State, performAll [.timerIrq, .pumpIrq] s = performAll [.pumpIrq, .timerIrq] s

/-- 20_memory.md R80: a tick and the timer's handler commute with every bus step: the engine's steps of every command that
is none of the timebase's, the environment's answers and the pump's handler. -/
def Obligations.TimerCommutesWithTheBus : Prop :=
  ∀ (s : State) (m k : Move), (m = .tick ∨ m = .timerIrq) →
    ((k = .engine ∧ ∀ i, isTimebaseCommand i = true → s.cmd ≠ some (commandOf i s)) ∨ (∃ e, k = .env e) ∨
      k = .pumpIrq) →
    performAll [m, k] s = performAll [k, m] s

/-- 60_exceptions.md R216: neither handler enters again on its own stale request. -/
def Obligations.HandlersDoNotReenter : Prop :=
  ∀ s t : State,
    (timerIrqEnabled s = true → perform .timerIrq s = .next t → timerIrqEnabled t = false) ∧
    (pumpIrqEnabled s = true → perform .pumpIrq s = .next t → pumpIrqEnabled t = false)

/-- 20_memory.md R61, R62: the block never writes host memory; only the host's own store does, and it writes one byte.
That host memory also survives a power-on reset is the model's (log 20). -/
def Obligations.OnlyTheHostWritesMemory : Prop :=
  (∀ s t : State, step s = .next t → (∀ a b ms, s.schedule ≠ .host (.storeByte a b) :: ms) → t.mem = s.mem) ∧
  (∀ (s t : State) (a : Word) (b : Byte), Memory.wf s.mem = true → perform (.host (.storeByte a b)) s = .next t →
    memRead t a = b ∧ ∀ c : Word, c ≠ a → memRead t c = memRead s c) ∧
  (∀ s t : State, step s = .next t → Memory.wf s.mem = true → Memory.wf t.mem = true)

/-- 00_scope.md R5, 20_memory.md R80, 30_encoding.md R104: issuing an admitted command makes it the command in progress
at its first numbered step, and takes no numbered step where a further move is due, so that a tick, a handler, an answer
or a read of `IF.STATUS` can come next. Where none is due the engine goes on at once (log 3). -/
def Obligations.IssuingTakesNoNumberedStep : Prop :=
  ∀ (i : Instr) (s : State), admits i s = true →
    (s.schedule ≠ [] → exec i s = .next { s with cmd := some (commandOf i s) }) ∧
    (s.schedule = [] → exec i s = performAll (List.replicate 8 .engine) { s with cmd := some (commandOf i s) }) ∧
    (∀ (w : Word) (m : Move) (ms : List Move), s.schedule = .host (.command w) :: m :: ms → decode w = .ok i →
      step s = .next { s with schedule := m :: ms, cmd := some (commandOf i s) })
end

