-- ==== Sys2Proof/Laws/State.lean ====
section
/-! SUPPORT. What each state update does to each field of State, one lemma a field, all true by unfolding one record
update; later proofs use these and unfold no update. -/

namespace Sys2Proof.Machine

/-! ### Appending events (20_memory.md R64). -/

@[simp] theorem record_bm (es : List BusEvent) (s : State) : (record es s).bm = s.bm := rfl
@[simp] theorem record_tb (es : List BusEvent) (s : State) : (record es s).tb = s.tb := rfl
@[simp] theorem record_ic (es : List BusEvent) (s : State) : (record es s).ic = s.ic := rfl
@[simp] theorem record_ifc (es : List BusEvent) (s : State) : (record es s).ifc = s.ifc := rfl
@[simp] theorem record_mem (es : List BusEvent) (s : State) : (record es s).mem = s.mem := rfl
@[simp] theorem record_trace (es : List BusEvent) (s : State) : (record es s).trace = s.trace ++ es := rfl
@[simp] theorem record_cmd (es : List BusEvent) (s : State) : (record es s).cmd = s.cmd := rfl
@[simp] theorem record_schedule (es : List BusEvent) (s : State) : (record es s).schedule = s.schedule := rfl
@[simp] theorem record_draws (es : List BusEvent) (s : State) : (record es s).draws = s.draws := rfl
@[simp] theorem record_readout (es : List BusEvent) (s : State) : (record es s).readout = s.readout := rfl

/-! ### Going on to another numbered step. -/

@[simp] theorem goTo_bm (c : Command) (s : State) : (goTo c s).bm = s.bm := rfl
@[simp] theorem goTo_tb (c : Command) (s : State) : (goTo c s).tb = s.tb := rfl
@[simp] theorem goTo_ic (c : Command) (s : State) : (goTo c s).ic = s.ic := rfl
@[simp] theorem goTo_ifc (c : Command) (s : State) : (goTo c s).ifc = s.ifc := rfl
@[simp] theorem goTo_mem (c : Command) (s : State) : (goTo c s).mem = s.mem := rfl
@[simp] theorem goTo_trace (c : Command) (s : State) : (goTo c s).trace = s.trace := rfl
@[simp] theorem goTo_cmd (c : Command) (s : State) : (goTo c s).cmd = some c := rfl
@[simp] theorem goTo_schedule (c : Command) (s : State) : (goTo c s).schedule = s.schedule := rfl
@[simp] theorem goTo_draws (c : Command) (s : State) : (goTo c s).draws = s.draws := rfl
@[simp] theorem goTo_readout (c : Command) (s : State) : (goTo c s).readout = s.readout := rfl

/-! ### Completion of a command (30_encoding.md R104). -/

@[simp] theorem complete_bm (v : Word) (s : State) : (complete v s).bm = s.bm := rfl
@[simp] theorem complete_tb (v : Word) (s : State) : (complete v s).tb = s.tb := rfl
@[simp] theorem complete_ic (v : Word) (s : State) : (complete v s).ic = s.ic := rfl
@[simp] theorem complete_ifc (v : Word) (s : State) : (complete v s).ifc = { s.ifc with result := v } := rfl
@[simp] theorem complete_mem (v : Word) (s : State) : (complete v s).mem = s.mem := rfl
@[simp] theorem complete_trace (v : Word) (s : State) : (complete v s).trace = s.trace := rfl
@[simp] theorem complete_cmd (v : Word) (s : State) : (complete v s).cmd = none := rfl
@[simp] theorem complete_schedule (v : Word) (s : State) : (complete v s).schedule = s.schedule := rfl
@[simp] theorem complete_draws (v : Word) (s : State) : (complete v s).draws = s.draws := rfl
@[simp] theorem complete_readout (v : Word) (s : State) : (complete v s).readout = s.readout := rfl

/-! ### IllegalCommand (60_exceptions.md R209). -/

@[simp] theorem raiseIllegalCommand_bm (s : State) : (raiseIllegalCommand s).bm = s.bm := rfl
@[simp] theorem raiseIllegalCommand_tb (s : State) : (raiseIllegalCommand s).tb = s.tb := rfl
@[simp] theorem raiseIllegalCommand_ic (s : State) : (raiseIllegalCommand s).ic = s.ic := rfl
@[simp] theorem raiseIllegalCommand_ifc (s : State) :
    (raiseIllegalCommand s).ifc = { s.ifc with cmdfault := true } := rfl
@[simp] theorem raiseIllegalCommand_mem (s : State) : (raiseIllegalCommand s).mem = s.mem := rfl
@[simp] theorem raiseIllegalCommand_trace (s : State) : (raiseIllegalCommand s).trace = s.trace := rfl
@[simp] theorem raiseIllegalCommand_cmd (s : State) : (raiseIllegalCommand s).cmd = s.cmd := rfl
@[simp] theorem raiseIllegalCommand_schedule (s : State) : (raiseIllegalCommand s).schedule = s.schedule := rfl
@[simp] theorem raiseIllegalCommand_draws (s : State) : (raiseIllegalCommand s).draws = s.draws := rfl
@[simp] theorem raiseIllegalCommand_readout (s : State) : (raiseIllegalCommand s).readout = s.readout := rfl

/-! ### The host stores one byte. -/

@[simp] theorem hostStore_bm (a : Word) (b : Byte) (s : State) : (hostStore a b s).bm = s.bm := rfl
@[simp] theorem hostStore_tb (a : Word) (b : Byte) (s : State) : (hostStore a b s).tb = s.tb := rfl
@[simp] theorem hostStore_ic (a : Word) (b : Byte) (s : State) : (hostStore a b s).ic = s.ic := rfl
@[simp] theorem hostStore_ifc (a : Word) (b : Byte) (s : State) : (hostStore a b s).ifc = s.ifc := rfl
@[simp] theorem hostStore_mem (a : Word) (b : Byte) (s : State) :
    (hostStore a b s).mem = memoryWrite s.mem a.toNat b := rfl
@[simp] theorem hostStore_trace (a : Word) (b : Byte) (s : State) : (hostStore a b s).trace = s.trace := rfl
@[simp] theorem hostStore_cmd (a : Word) (b : Byte) (s : State) : (hostStore a b s).cmd = s.cmd := rfl
@[simp] theorem hostStore_schedule (a : Word) (b : Byte) (s : State) : (hostStore a b s).schedule = s.schedule := rfl
@[simp] theorem hostStore_draws (a : Word) (b : Byte) (s : State) : (hostStore a b s).draws = s.draws := rfl
@[simp] theorem hostStore_readout (a : Word) (b : Byte) (s : State) : (hostStore a b s).readout = s.readout := rfl

/-! ### WRITE step 1 (42_bus_data.md R170). -/

@[simp] theorem choosePolling_bm (s : State) : (choosePolling s).bm = { s.bm with txmode := .polling } := rfl
@[simp] theorem choosePolling_tb (s : State) : (choosePolling s).tb = s.tb := rfl
@[simp] theorem choosePolling_ic (s : State) : (choosePolling s).ic = s.ic := rfl
@[simp] theorem choosePolling_ifc (s : State) : (choosePolling s).ifc = s.ifc := rfl
@[simp] theorem choosePolling_mem (s : State) : (choosePolling s).mem = s.mem := rfl
@[simp] theorem choosePolling_trace (s : State) : (choosePolling s).trace = s.trace := rfl
@[simp] theorem choosePolling_cmd (s : State) : (choosePolling s).cmd = s.cmd := rfl
@[simp] theorem choosePolling_schedule (s : State) : (choosePolling s).schedule = s.schedule := rfl
@[simp] theorem choosePolling_draws (s : State) : (choosePolling s).draws = s.draws := rfl
@[simp] theorem choosePolling_readout (s : State) : (choosePolling s).readout = s.readout := rfl

/-! ### READ step 2 (42_bus_data.md R172). -/

@[simp] theorem consumeCount_bm (s : State) : (consumeCount s).bm = { s.bm with rdcnt := countDown s.bm.rdcnt } := rfl
@[simp] theorem consumeCount_tb (s : State) : (consumeCount s).tb = s.tb := rfl
@[simp] theorem consumeCount_ic (s : State) : (consumeCount s).ic = s.ic := rfl
@[simp] theorem consumeCount_ifc (s : State) : (consumeCount s).ifc = s.ifc := rfl
@[simp] theorem consumeCount_mem (s : State) : (consumeCount s).mem = s.mem := rfl
@[simp] theorem consumeCount_trace (s : State) : (consumeCount s).trace = s.trace := rfl
@[simp] theorem consumeCount_cmd (s : State) : (consumeCount s).cmd = s.cmd := rfl
@[simp] theorem consumeCount_schedule (s : State) : (consumeCount s).schedule = s.schedule := rfl
@[simp] theorem consumeCount_draws (s : State) : (consumeCount s).draws = s.draws := rfl
@[simp] theorem consumeCount_readout (s : State) : (consumeCount s).readout = s.readout := rfl

/-! ### `BusAddrPhase` (20_memory.md R66). -/

@[simp] theorem busAddrPhase_bm (ab : Byte) (s : State) :
    (busAddrPhase ab s).bm = { s.bm with
      wif := false, rif := false, arblost := false, buserr := false,
      phase := .address, dir := directionOfByte ab, txmode := .none, inflight := .addr } := rfl
@[simp] theorem busAddrPhase_tb (ab : Byte) (s : State) : (busAddrPhase ab s).tb = s.tb := rfl
@[simp] theorem busAddrPhase_ic (ab : Byte) (s : State) : (busAddrPhase ab s).ic = s.ic := rfl
@[simp] theorem busAddrPhase_ifc (ab : Byte) (s : State) : (busAddrPhase ab s).ifc = s.ifc := rfl
@[simp] theorem busAddrPhase_mem (ab : Byte) (s : State) : (busAddrPhase ab s).mem = s.mem := rfl
@[simp] theorem busAddrPhase_trace (ab : Byte) (s : State) :
    (busAddrPhase ab s).trace = s.trace ++ [.start, .tx ab] := rfl
@[simp] theorem busAddrPhase_cmd (ab : Byte) (s : State) : (busAddrPhase ab s).cmd = s.cmd := rfl
@[simp] theorem busAddrPhase_schedule (ab : Byte) (s : State) : (busAddrPhase ab s).schedule = s.schedule := rfl
@[simp] theorem busAddrPhase_draws (ab : Byte) (s : State) : (busAddrPhase ab s).draws = s.draws := rfl
@[simp] theorem busAddrPhase_readout (ab : Byte) (s : State) : (busAddrPhase ab s).readout = s.readout := rfl

/-! ### `BusStop` (20_memory.md R71). -/

@[simp] theorem busStop_bm (s : State) :
    (busStop s).bm = { s.bm with
      phase := .idle, inflight := .none, txmode := .none,
      wif := false, rif := false, arblost := false, buserr := false } := rfl
@[simp] theorem busStop_tb (s : State) : (busStop s).tb = s.tb := rfl
@[simp] theorem busStop_ic (s : State) : (busStop s).ic = s.ic := rfl
@[simp] theorem busStop_ifc (s : State) : (busStop s).ifc = s.ifc := rfl
@[simp] theorem busStop_mem (s : State) : (busStop s).mem = s.mem := rfl
@[simp] theorem busStop_trace (s : State) : (busStop s).trace = s.trace ++ (if s.bm.owns then [.stop] else []) := rfl
@[simp] theorem busStop_cmd (s : State) : (busStop s).cmd = s.cmd := rfl
@[simp] theorem busStop_schedule (s : State) : (busStop s).schedule = s.schedule := rfl
@[simp] theorem busStop_draws (s : State) : (busStop s).draws = s.draws := rfl
@[simp] theorem busStop_readout (s : State) : (busStop s).readout = s.readout := rfl

/-! ### Arming the pump (43_bus_pump.md R190). -/

@[simp] theorem armPump_bm (ptr len : Word) (s : State) :
    (armPump ptr len s).bm = { s.bm with
      cur := ptr, fin := ptr + len,
      pdone := false, pact := true, txmode := .pump, wie := true } := rfl
@[simp] theorem armPump_tb (ptr len : Word) (s : State) : (armPump ptr len s).tb = s.tb := rfl
@[simp] theorem armPump_ic (ptr len : Word) (s : State) : (armPump ptr len s).ic = s.ic := rfl
@[simp] theorem armPump_ifc (ptr len : Word) (s : State) : (armPump ptr len s).ifc = s.ifc := rfl
@[simp] theorem armPump_mem (ptr len : Word) (s : State) : (armPump ptr len s).mem = s.mem := rfl
@[simp] theorem armPump_trace (ptr len : Word) (s : State) : (armPump ptr len s).trace = s.trace := rfl
@[simp] theorem armPump_cmd (ptr len : Word) (s : State) : (armPump ptr len s).cmd = s.cmd := rfl
@[simp] theorem armPump_schedule (ptr len : Word) (s : State) : (armPump ptr len s).schedule = s.schedule := rfl
@[simp] theorem armPump_draws (ptr len : Word) (s : State) : (armPump ptr len s).draws = s.draws := rfl
@[simp] theorem armPump_readout (ptr len : Word) (s : State) : (armPump ptr len s).readout = s.readout := rfl

/-! ### The firing that finds the cursor exhausted (43_bus_pump.md R191). -/

@[simp] theorem pumpFinish_bm (s : State) :
    (pumpFinish s).bm = { s.bm with pdone := true, pact := false, wie := false } := rfl
@[simp] theorem pumpFinish_tb (s : State) : (pumpFinish s).tb = s.tb := rfl
@[simp] theorem pumpFinish_ic (s : State) : (pumpFinish s).ic = s.ic := rfl
@[simp] theorem pumpFinish_ifc (s : State) : (pumpFinish s).ifc = s.ifc := rfl
@[simp] theorem pumpFinish_mem (s : State) : (pumpFinish s).mem = s.mem := rfl
@[simp] theorem pumpFinish_trace (s : State) : (pumpFinish s).trace = s.trace := rfl
@[simp] theorem pumpFinish_cmd (s : State) : (pumpFinish s).cmd = s.cmd := rfl
@[simp] theorem pumpFinish_schedule (s : State) : (pumpFinish s).schedule = s.schedule := rfl
@[simp] theorem pumpFinish_draws (s : State) : (pumpFinish s).draws = s.draws := rfl
@[simp] theorem pumpFinish_readout (s : State) : (pumpFinish s).readout = s.readout := rfl

/-! ### BM_INIT (41_bus_address.md R141). -/

@[simp] theorem initBusMaster_bm (hz ns : Word) (s : State) :
    (initBusMaster hz ns s).bm = { s.bm with
      baud := baudDivisor hz ns, en := true,
      phase := .idle, inflight := .none, txmode := .none,
      wif := false, rif := false, arblost := false, buserr := false,
      wie := false, pact := false } := rfl
@[simp] theorem initBusMaster_tb (hz ns : Word) (s : State) : (initBusMaster hz ns s).tb = s.tb := rfl
@[simp] theorem initBusMaster_ic (hz ns : Word) (s : State) : (initBusMaster hz ns s).ic = s.ic := rfl
@[simp] theorem initBusMaster_ifc (hz ns : Word) (s : State) : (initBusMaster hz ns s).ifc = s.ifc := rfl
@[simp] theorem initBusMaster_mem (hz ns : Word) (s : State) : (initBusMaster hz ns s).mem = s.mem := rfl
@[simp] theorem initBusMaster_trace (hz ns : Word) (s : State) : (initBusMaster hz ns s).trace = s.trace := rfl
@[simp] theorem initBusMaster_cmd (hz ns : Word) (s : State) : (initBusMaster hz ns s).cmd = s.cmd := rfl
@[simp] theorem initBusMaster_schedule (hz ns : Word) (s : State) : (initBusMaster hz ns s).schedule = s.schedule := rfl
@[simp] theorem initBusMaster_draws (hz ns : Word) (s : State) : (initBusMaster hz ns s).draws = s.draws := rfl
@[simp] theorem initBusMaster_readout (hz ns : Word) (s : State) : (initBusMaster hz ns s).readout = s.readout := rfl

/-! ### TB_INIT (40_timebase.md R120). -/

@[simp] theorem startTimebase_bm (s : State) : (startTimebase s).bm = s.bm := rfl
@[simp] theorem startTimebase_tb (s : State) :
    (startTimebase s).tb = { count := 0#32, run := true, pend := s.tb.pend && (draw s).1, ie := true, period := timerPeriod } := rfl
@[simp] theorem startTimebase_ic (s : State) : (startTimebase s).ic = { gie := true } := rfl
@[simp] theorem startTimebase_ifc (s : State) : (startTimebase s).ifc = s.ifc := rfl
@[simp] theorem startTimebase_mem (s : State) : (startTimebase s).mem = s.mem := rfl
@[simp] theorem startTimebase_trace (s : State) : (startTimebase s).trace = s.trace := rfl
@[simp] theorem startTimebase_cmd (s : State) : (startTimebase s).cmd = s.cmd := rfl
@[simp] theorem startTimebase_schedule (s : State) : (startTimebase s).schedule = s.schedule := rfl
@[simp] theorem startTimebase_draws (s : State) : (startTimebase s).draws = s.draws + 1 := rfl
@[simp] theorem startTimebase_readout (s : State) : (startTimebase s).readout = s.readout := rfl

/-! ### A failed address phase (20_memory.md R67). -/

@[simp] theorem addressFailed_bm (r : Ack) (arb err : Bool) (es : List BusEvent) (s : State) :
    (addressFailed r arb err es s).bm = { s.bm with
      rxack := r, arblost := s.bm.arblost || arb, buserr := s.bm.buserr || err, inflight := .none, wif := true } := rfl
@[simp] theorem addressFailed_tb (r : Ack) (arb err : Bool) (es : List BusEvent) (s : State) :
    (addressFailed r arb err es s).tb = s.tb := rfl
@[simp] theorem addressFailed_ic (r : Ack) (arb err : Bool) (es : List BusEvent) (s : State) :
    (addressFailed r arb err es s).ic = s.ic := rfl
@[simp] theorem addressFailed_ifc (r : Ack) (arb err : Bool) (es : List BusEvent) (s : State) :
    (addressFailed r arb err es s).ifc = s.ifc := rfl
@[simp] theorem addressFailed_mem (r : Ack) (arb err : Bool) (es : List BusEvent) (s : State) :
    (addressFailed r arb err es s).mem = s.mem := rfl
@[simp] theorem addressFailed_trace (r : Ack) (arb err : Bool) (es : List BusEvent) (s : State) :
    (addressFailed r arb err es s).trace = s.trace ++ es := rfl
@[simp] theorem addressFailed_cmd (r : Ack) (arb err : Bool) (es : List BusEvent) (s : State) :
    (addressFailed r arb err es s).cmd = s.cmd := rfl
@[simp] theorem addressFailed_schedule (r : Ack) (arb err : Bool) (es : List BusEvent) (s : State) :
    (addressFailed r arb err es s).schedule = s.schedule := rfl
@[simp] theorem addressFailed_draws (r : Ack) (arb err : Bool) (es : List BusEvent) (s : State) :
    (addressFailed r arb err es s).draws = s.draws := rfl
@[simp] theorem addressFailed_readout (r : Ack) (arb err : Bool) (es : List BusEvent) (s : State) :
    (addressFailed r arb err es s).readout = s.readout := rfl

end Sys2Proof.Machine
end

