-- ==== Sys2Proof/Laws/Ops.lean ====
section
/-! SUPPORT. One lemma for each shared operation that can stop or choose: everything it can do, to be cited in place
of unfolding it. -/

namespace Sys2Proof.Machine

/-! ## Sequencing and admission -/

@[simp] theorem andThen_next (s : State) (f : State → Host.Outcome State Fault Refusal) :
    andThen (.next s) f = f s := rfl

theorem andThen_eq_next {o : Host.Outcome State Fault Refusal} {f : State → Host.Outcome State Fault Refusal}
    {t : State} (h : andThen o f = .next t) : ∃ s, o = .next s ∧ f s = .next t := by
  cases o with
  | next s => exact ⟨s, rfl, h⟩
  | fault r => cases h
  | refused r => cases h

theorem admitted_eq_next {r : Option Refusal} {go : Host.Outcome State Fault Refusal} {t : State}
    (h : admitted r go = .next t) : r = none ∧ go = .next t := by
  cases r with
  | none => exact ⟨rfl, h⟩
  | some r => cases h

@[simp] theorem admitted_none (go : Host.Outcome State Fault Refusal) : admitted none go = go := rfl

@[simp] theorem orElseRefuse_eq_none (a b : Option Refusal) : orElseRefuse a b = none ↔ a = none ∧ b = none := by
  cases a <;> simp [orElseRefuse]

@[simp] theorem refuseIf_eq_none (c : Bool) (r : Refusal) : refuseIf c r = none ↔ c = false := by
  cases c <;> simp [refuseIf]

theorem admitAny_eq_none (s : State) : admitAny s = none ↔ s.cmd = none := by
  cases h : s.cmd <;> simp [admitAny, h]

theorem admitBus_eq_none (s : State) : admitBus s = none ↔ s.cmd = none ∧ s.bm.pact = false := by
  simp [admitBus, admitAny_eq_none]

theorem admitEnabled_eq_none (s : State) :
    admitEnabled s = none ↔ (s.cmd = none ∧ s.bm.pact = false) ∧ s.bm.en = true := by
  simp [admitEnabled, admitBus_eq_none]

theorem admitAddress_eq_none (s : State) :
    admitAddress s = none ↔ ((s.cmd = none ∧ s.bm.pact = false) ∧ s.bm.en = true) ∧ s.bm.readOpen = false := by
  simp [admitAddress, admitEnabled_eq_none]

theorem admitStop_eq_none (s : State) :
    admitStop s = none ↔
      ((s.cmd = none ∧ s.bm.pact = false) ∧ s.bm.en = true) ∧ s.bm.phase ≠ .idle ∧ s.bm.readOpen = false := by
  simp [admitStop, admitEnabled_eq_none]

theorem admitWrite_eq_none (s : State) :
    admitWrite s = none ↔
      ((s.cmd = none ∧ s.bm.pact = false) ∧ s.bm.en = true) ∧ s.bm.phase = .dataWrite ∧ s.bm.txmode ≠ .pump := by
  simp [admitWrite, admitEnabled_eq_none]

theorem admitWriteBytes_eq_none (s : State) :
    admitWriteBytes s = none ↔ admitWrite s = none ∧ rangeFits s.ifc.arg0 s.ifc.arg1 = true := by
  simp [admitWriteBytes]

theorem admitAsync_eq_none (s : State) :
    admitAsync s = none ↔
      ((s.cmd = none ∧ s.bm.pact = false) ∧ s.bm.en = true) ∧ s.bm.phase = .dataWrite ∧ s.bm.txmode ≠ .polling ∧
        rangeFits s.ifc.arg0 s.ifc.arg1 = true := by
  simp [admitAsync, admitEnabled_eq_none]

theorem admitRead_eq_none (s : State) :
    admitRead s = none ↔ ((s.cmd = none ∧ s.bm.pact = false) ∧ s.bm.en = true) ∧ s.bm.phase = .dataRead := by
  simp [admitRead, admitEnabled_eq_none]

theorem admitNow_eq_none (s : State) : admitNow s = none ↔ s.cmd = none ∧ s.tb.run = true := by
  simp [admitNow, admitAny_eq_none]

theorem admitInit_eq_none (s : State) :
    admitInit s = none ↔
      (s.cmd = none ∧ s.bm.pact = false) ∧ (s.bm.en = true → s.bm.phase = .idle) ∧ s.ifc.arg0 ≠ 0#32 := by
  simp [admitInit, admitBus_eq_none]

/-! ## Bus primitives -/

theorem busSendData_eq_next {b : Byte} {s t : State} (h : busSendData b s = .next t) :
    (s.bm.phase = .dataWrite ∧ s.bm.wif = true) ∧
      t = { s with
        bm := { s.bm with data := b, wif := false, inflight := .data }
        trace := s.trace ++ [.tx b] } := by
  unfold busSendData at h
  split at h
  · cases h
    exact ⟨‹_›, rfl⟩
  · cases h

theorem busAckAndReceive_eq_next {s t : State} (h : busAckAndReceive s = .next t) :
    (s.bm.phase = .dataRead ∧ s.bm.rif = true) ∧
      t = { s with
        bm := { s.bm with ackact := .ack, rif := false, inflight := .recv }
        trace := s.trace ++ [.master .ack] } := by
  unfold busAckAndReceive at h
  split at h
  · cases h
    exact ⟨‹_›, rfl⟩
  · cases h

theorem busNak_eq_next {s t : State} (h : busNak s = .next t) :
    (s.bm.phase = .dataRead ∧ s.bm.rif = true) ∧
      t = { s with
        bm := { s.bm with ackact := .nak, rif := false, inflight := .none }
        trace := s.trace ++ [.master .nak] } := by
  unfold busNak at h
  split at h
  · cases h
    exact ⟨‹_›, rfl⟩
  · cases h

/-- READ step 4 (42_bus_data.md R172): which acknowledge bit it sends. -/
theorem acknowledgeByte_eq (s : State) :
    acknowledgeByte s = if s.bm.rdcnt = 0#8 then busNak s else busAckAndReceive s := by
  unfold acknowledgeByte
  by_cases h : s.bm.rdcnt = 0#8 <;> simp [h]

/-! ## Waits -/

theorem waitStep_of_true {c : Bool} (h : c = true) (go : Command) (s : State) : waitStep c go s = goTo go s := by
  simp [waitStep, h]

theorem waitStep_of_false {c : Bool} (h : c = false) (go : Command) (s : State) : waitStep c go s = s := by
  simp [waitStep, h]

/-! ## The environment -/

/-- An answer to an address byte (20_memory.md R67) touches the bus master, the trace and the draws. -/
theorem envAddr_eq_next {x : AddrAnswer} {s t : State} (h : envAddr x s = .next t) :
    (s.bm.inflight = .addr ∧ t = answerAddress x s) ∨ (s.bm.inflight ≠ .addr ∧ t = s) := by
  unfold envAddr at h
  split at h
  · cases h
    exact .inl ⟨‹_›, rfl⟩
  · split at h
    · cases h
    · cases h
      exact .inr ⟨‹_›, rfl⟩

theorem envData_eq (a : Ack) (s : State) :
    envData a s =
      if s.bm.inflight = .data then
        { s with bm := { s.bm with rxack := a, inflight := .none, wif := true }, trace := s.trace ++ [.slave a] }
      else s := rfl

theorem envRecv_eq (b : Byte) (s : State) :
    envRecv b s =
      if s.bm.inflight = .recv then
        { s with bm := { s.bm with data := b, inflight := .none, rif := true }, trace := s.trace ++ [.rx b] }
      else s := rfl

/-- Whatever the answer, the rest of the machine is untouched. -/
theorem answerAddress_frame (x : AddrAnswer) (s : State) :
    answerAddress x s = { s with
      bm := (answerAddress x s).bm, trace := (answerAddress x s).trace, draws := (answerAddress x s).draws } := by
  cases x
  · simp only [answerAddress, addressAccepted]
    split <;> rfl
  all_goals rfl

end Sys2Proof.Machine
end

