-- ==== Sys2Proof/Laws/Admission.lean ====
section
/-! SUPPORT. Admission as Safety states it, from the spec's table, and as the commands test it: one lemma a command. -/

namespace Sys2Proof.Machine

theorem readOpen_of_phase_ne {b : BusMaster} (h : b.phase ≠ .dataRead) : b.readOpen = false := by
  simp [BusMaster.readOpen, h]

theorem admits_bus_iff {i : Instr} {s : State} (h : isTimebaseCommand i = false) :
    admits i s = true ↔
      ((s.cmd = none ∧ s.bm.pact = false) ∧ tableAdmits i s.bm = true) ∧ operandsAdmit i s = true := by
  simp [admits, h]

theorem tableAdmits_init (b : BusMaster) : tableAdmits .bmInit b = true ↔ (b.en = true → b.phase = .idle) := by
  cases he : b.en <;> cases hp : b.phase <;> simp [tableAdmits, he, hp]

theorem tableAdmits_start (b : BusMaster) (a : BusAddress) (n : Byte) :
    tableAdmits (.start a n) b = true ↔ b.en = true ∧ b.readOpen = false := by
  cases he : b.en <;> cases hp : b.phase <;> simp [tableAdmits, he, hp, readOpen_of_phase_ne]

theorem tableAdmits_restart (b : BusMaster) (a : BusAddress) (n : Byte) :
    tableAdmits (.restart a n) b = true ↔ b.en = true ∧ b.readOpen = false := by
  cases he : b.en <;> cases hp : b.phase <;> simp [tableAdmits, he, hp, readOpen_of_phase_ne]

theorem tableAdmits_scan (b : BusMaster) : tableAdmits .scan b = true ↔ b.en = true ∧ b.readOpen = false := by
  cases he : b.en <;> cases hp : b.phase <;> simp [tableAdmits, he, hp, readOpen_of_phase_ne]

theorem tableAdmits_stop (b : BusMaster) :
    tableAdmits .stop b = true ↔ b.en = true ∧ b.phase ≠ .idle ∧ b.readOpen = false := by
  cases he : b.en <;> cases hp : b.phase <;> simp [tableAdmits, he, hp, readOpen_of_phase_ne]

theorem tableAdmits_write (b : BusMaster) (x : Byte) :
    tableAdmits (.write x) b = true ↔ b.en = true ∧ b.phase = .dataWrite ∧ b.txmode ≠ .pump := by
  cases he : b.en <;> cases hp : b.phase <;> simp [tableAdmits, he, hp]

theorem tableAdmits_writeBytes (b : BusMaster) :
    tableAdmits .writeBytes b = true ↔ b.en = true ∧ b.phase = .dataWrite ∧ b.txmode ≠ .pump := by
  cases he : b.en <;> cases hp : b.phase <;> simp [tableAdmits, he, hp]

theorem tableAdmits_writeAsync (b : BusMaster) :
    tableAdmits .writeAsync b = true ↔ b.en = true ∧ b.phase = .dataWrite ∧ b.txmode ≠ .polling := by
  cases he : b.en <;> cases hp : b.phase <;> simp [tableAdmits, he, hp]

theorem tableAdmits_read (b : BusMaster) : tableAdmits .read b = true ↔ b.en = true ∧ b.phase = .dataRead := by
  cases he : b.en <;> cases hp : b.phase <;> simp [tableAdmits, he, hp]

theorem tableAdmits_readLast (b : BusMaster) :
    tableAdmits .readLast b = true ↔ b.en = true ∧ b.phase = .dataRead := by
  cases he : b.en <;> cases hp : b.phase <;> simp [tableAdmits, he, hp]

/-! ## One lemma a command -/

theorem admits_bmInit_iff (s : State) : admits .bmInit s = true ↔ admitInit s = none := by
  rw [admits_bus_iff rfl, tableAdmits_init, admitInit_eq_none]
  simp [operandsAdmit, and_assoc]

theorem admits_start_iff (a : BusAddress) (n : Byte) (s : State) :
    admits (.start a n) s = true ↔ admitAddress s = none := by
  rw [admits_bus_iff rfl, tableAdmits_start, admitAddress_eq_none]
  simp [operandsAdmit, and_assoc]

theorem admits_restart_iff (a : BusAddress) (n : Byte) (s : State) :
    admits (.restart a n) s = true ↔ admitAddress s = none := by
  rw [admits_bus_iff rfl, tableAdmits_restart, admitAddress_eq_none]
  simp [operandsAdmit, and_assoc]

theorem admits_scan_iff (s : State) : admits .scan s = true ↔ admitAddress s = none := by
  rw [admits_bus_iff rfl, tableAdmits_scan, admitAddress_eq_none]
  simp [operandsAdmit, and_assoc]

theorem admits_stop_iff (s : State) : admits .stop s = true ↔ admitStop s = none := by
  rw [admits_bus_iff rfl, tableAdmits_stop, admitStop_eq_none]
  simp [operandsAdmit, and_assoc]

theorem admits_write_iff (b : Byte) (s : State) : admits (.write b) s = true ↔ admitWrite s = none := by
  rw [admits_bus_iff rfl, tableAdmits_write, admitWrite_eq_none]
  simp [operandsAdmit, and_assoc]

theorem admits_writeBytes_iff (s : State) : admits .writeBytes s = true ↔ admitWriteBytes s = none := by
  rw [admits_bus_iff rfl, tableAdmits_writeBytes, admitWriteBytes_eq_none, admitWrite_eq_none]
  simp [operandsAdmit, and_assoc]

theorem admits_writeAsync_iff (s : State) : admits .writeAsync s = true ↔ admitAsync s = none := by
  rw [admits_bus_iff rfl, tableAdmits_writeAsync, admitAsync_eq_none]
  simp [operandsAdmit, and_assoc]

theorem admits_read_iff (s : State) : admits .read s = true ↔ admitRead s = none := by
  rw [admits_bus_iff rfl, tableAdmits_read, admitRead_eq_none]
  simp [operandsAdmit, and_assoc]

theorem admits_readLast_iff (s : State) : admits .readLast s = true ↔ admitRead s = none := by
  rw [admits_bus_iff rfl, tableAdmits_readLast, admitRead_eq_none]
  simp [operandsAdmit, and_assoc]

theorem admits_tbInit_iff (s : State) : admits .tbInit s = true ↔ admitAny s = none := by
  rw [admitAny_eq_none]
  simp [admits, isTimebaseCommand, tableAdmits, operandsAdmit]

theorem admits_tbRestart_iff (s : State) : admits .tbRestart s = true ↔ admitAny s = none := by
  rw [admitAny_eq_none]
  simp [admits, isTimebaseCommand, tableAdmits, operandsAdmit]

theorem admits_tbNow_iff (s : State) : admits .tbNow s = true ↔ admitNow s = none := by
  rw [admitNow_eq_none]
  simp [admits, isTimebaseCommand, tableAdmits, operandsAdmit]

end Sys2Proof.Machine
end

