-- ==== Sys2Proof/Laws/Bits.lean ====
section
/-! SUPPORT. Fields of words that are put together: the fields of an encoded command word (30_encoding.md R91, R92),
and the direction bit of an address byte (R93). -/

namespace Sys2Proof.Laws

theorem extract_append_low {n m : Nat} (x : BitVec n) (y : BitVec m) : (x ++ y).extractLsb' 0 m = y := by
  ext i hi
  simp [BitVec.getLsbD_append, hi]

theorem extract_append_high {n m : Nat} (x : BitVec n) (y : BitVec m) (k l : Nat) :
    (x ++ y).extractLsb' (m + k) l = x.extractLsb' k l := by
  ext i hi
  simp [BitVec.getLsbD_append, Nat.add_assoc]

theorem extract_all {n : Nat} (x : BitVec n) : x.extractLsb' 0 n = x := by
  ext i hi
  simp

/-! ## Words without operands in them -/

theorem opcodeField_encodeBare (op : Byte) : opcodeField (encodeBare op) = op :=
  (extract_append_high op (0#24 : BitVec 24) 0 8).trans (extract_all op)

theorem reserved_encodeBare (op : Byte) : (encodeBare op).extractLsb' 0 24 = 0#24 :=
  extract_append_low op (0#24 : BitVec 24)

/-! ## Words of format CB -/

theorem opcodeField_encodeByte (op b : Byte) : opcodeField (encodeByte op b) = op :=
  (extract_append_high (op ++ (0#16 : BitVec 16)) b 16 8).trans
    ((extract_append_high op (0#16 : BitVec 16) 0 8).trans (extract_all op))

theorem lowField_encodeByte (op b : Byte) : lowField (encodeByte op b) = b :=
  extract_append_low (op ++ (0#16 : BitVec 16)) b

theorem reserved_encodeByte (op b : Byte) : (encodeByte op b).extractLsb' 8 16 = 0#16 :=
  (extract_append_high (op ++ (0#16 : BitVec 16)) b 0 16).trans (extract_append_low op (0#16 : BitVec 16))

/-! ## Words of format CA -/

theorem opcodeField_encodeAddressed (op : Byte) (a : BusAddress) (n : Byte) :
    opcodeField (encodeAddressed op a n) = op :=
  (extract_append_high (op ++ (0#9 : BitVec 9) ++ a) n 16 8).trans
    ((extract_append_high (op ++ (0#9 : BitVec 9)) a 9 8).trans
      ((extract_append_high op (0#9 : BitVec 9) 0 8).trans (extract_all op)))

theorem lowField_encodeAddressed (op : Byte) (a : BusAddress) (n : Byte) :
    lowField (encodeAddressed op a n) = n :=
  extract_append_low (op ++ (0#9 : BitVec 9) ++ a) n

theorem addrField_encodeAddressed (op : Byte) (a : BusAddress) (n : Byte) :
    addrField (encodeAddressed op a n) = a :=
  (extract_append_high (op ++ (0#9 : BitVec 9) ++ a) n 0 7).trans (extract_append_low (op ++ (0#9 : BitVec 9)) a)

theorem reserved_encodeAddressed (op : Byte) (a : BusAddress) (n : Byte) :
    (encodeAddressed op a n).extractLsb' 15 9 = 0#9 :=
  (extract_append_high (op ++ (0#9 : BitVec 9) ++ a) n 7 9).trans
    ((extract_append_high (op ++ (0#9 : BitVec 9)) a 0 9).trans (extract_append_low op (0#9 : BitVec 9)))

/-! ## Reserved bits: the masks of WellFormed and the fields of Decode -/

/-- A mask that covers exactly the bits `k` to `k + l - 1` is clear in a word exactly if that field of it is 0. -/
theorem and_mask_eq_zero_iff (w m : Word) (k l : Nat) (hk : k + l ≤ 32)
    (hm : ∀ i < 32, m.getLsbD i = (decide (k ≤ i) && decide (i < k + l))) :
    w &&& m = 0#32 ↔ w.extractLsb' k l = 0#l := by
  constructor
  · intro h
    ext i hi
    have := congrArg (·.getLsbD (k + i)) h
    have hbit := hm (k + i) (by omega)
    simp [hbit, hi] at this
    simpa [hi] using this
  · intro h
    ext i hi
    have hbit := hm i hi
    by_cases hr : k ≤ i ∧ i < k + l
    · have := congrArg (·.getLsbD (i - k)) h
      simp [show i - k < l by omega, show k + (i - k) = i by omega] at this
      simp [this, ← BitVec.getLsbD_eq_getElem]
    · have : m[i] = false := by
        rw [← BitVec.getLsbD_eq_getElem, hbit]
        simp
        omega
      simp [this]

theorem reserved_bare_iff (w : Word) : w &&& 0x00FFFFFF#32 = 0#32 ↔ w.extractLsb' 0 24 = 0#24 :=
  and_mask_eq_zero_iff w _ 0 24 (by decide) (by decide)

theorem reserved_byte_iff (w : Word) : w &&& 0x00FFFF00#32 = 0#32 ↔ w.extractLsb' 8 16 = 0#16 :=
  and_mask_eq_zero_iff w _ 8 16 (by decide) (by decide)

theorem reserved_addressed_iff (w : Word) : w &&& 0x00FF8000#32 = 0#32 ↔ w.extractLsb' 15 9 = 0#9 :=
  and_mask_eq_zero_iff w _ 15 9 (by decide) (by decide)

/-! ## The address byte -/

/-- The direction an address byte was formed with is the one that `BusAddrPhase` reads off it (R66, R94). -/
theorem directionOfByte_addressByte (a : BusAddress) (d : Machine.Direction) :
    Machine.directionOfByte (Machine.addressByte a d) = d := by
  have h : (Machine.addressByte a d).extractLsb' 0 1 = Machine.directionBit d :=
    extract_append_low a (Machine.directionBit d)
  rw [Machine.directionOfByte, h]
  cases d <;> decide

end Sys2Proof.Laws
end

