-- ==== Sys2Proof/Laws/Engine.lean ====
section
/-! SUPPORT. What the engine's steps leave alone, said once for one numbered step and lifted to runs of them: what every
command leaves alone, and what the commands of more than one step leave alone beyond that. -/

namespace Sys2Proof.Machine

/-- A command whose rule has one atomic step. -/
def Command.oneStep (c : Command) : Bool :=
  match c with
  | .bmInit _ _ => true
  | .stop => true
  | .writeAsync _ _ => true
  | .tbInit => true
  | .tbNow => true
  | .tbRestart => true
  | .start _ _ _ => false
  | .restart _ _ _ => false
  | .scan _ _ => false
  | .write _ _ => false
  | .writeBytes _ _ _ _ => false
  | .read _ => false
  | .readLast _ => false

/-- A numbered step of any command writes the bus master, the timebase, `IC.GIE`, the trace, `IF.RESULT`, the draws and
the command in progress, and nothing else; it only appends to the trace and never disables the bus master. -/
def CommandFrame (s t : State) : Prop :=
  t = { s with
    bm := t.bm, tb := t.tb, ic := t.ic, trace := t.trace, cmd := t.cmd, draws := t.draws,
    ifc := { s.ifc with result := t.ifc.result } } ∧
  (s.bm.en = true → t.bm.en = true) ∧ s.trace <+: t.trace

theorem CommandFrame.refl (s : State) : CommandFrame s s := ⟨rfl, id, List.prefix_rfl⟩

theorem CommandFrame.trans {s t u : State} (h : CommandFrame s t) (k : CommandFrame t u) : CommandFrame s u := by
  obtain ⟨h, a, p⟩ := h
  obtain ⟨k, b, q⟩ := k
  refine ⟨?_, b ∘ a, p.trans q⟩
  rw [k, h]

/-- A numbered step of a command of more than one step writes the bus master, the trace, `IF.RESULT` and the command in
progress, and nothing else. -/
def EngineFrame (s t : State) : Prop :=
  t = { s with bm := t.bm, trace := t.trace, cmd := t.cmd, ifc := { s.ifc with result := t.ifc.result } } ∧
    t.bm.en = s.bm.en ∧ t.bm.baud = s.bm.baud ∧ t.bm.cur = s.bm.cur ∧ t.bm.fin = s.bm.fin ∧
    t.bm.pact = s.bm.pact ∧ t.bm.pdone = s.bm.pdone ∧ t.bm.wie = s.bm.wie ∧ s.trace <+: t.trace

theorem EngineFrame.toCommandFrame {s t : State} (h : EngineFrame s t) : CommandFrame s t := by
  obtain ⟨h, a, -, -, -, -, -, -, p⟩ := h
  refine ⟨?_, fun e => a.trans e, p⟩
  rw [h]

theorem EngineFrame.refl (s : State) : EngineFrame s s := ⟨rfl, rfl, rfl, rfl, rfl, rfl, rfl, rfl, List.prefix_rfl⟩

theorem EngineFrame.trans {s t u : State} (h : EngineFrame s t) (k : EngineFrame t u) : EngineFrame s u := by
  obtain ⟨h, a, b, c, d, e, f, g, p⟩ := h
  obtain ⟨k, a', b', c', d', e', f', g', p'⟩ := k
  refine ⟨?_, a'.trans a, b'.trans b, c'.trans c, d'.trans d, e'.trans e, f'.trans f, g'.trans g, p.trans p'⟩
  rw [k, h]

theorem busSendData_frame {b : Byte} {s t : State} (h : busSendData b s = .next t) : EngineFrame s t := by
  obtain ⟨-, rfl⟩ := busSendData_eq_next h
  exact ⟨rfl, rfl, rfl, rfl, rfl, rfl, rfl, rfl, List.prefix_append _ _⟩

theorem busAckAndReceive_frame {s t : State} (h : busAckAndReceive s = .next t) : EngineFrame s t := by
  obtain ⟨-, rfl⟩ := busAckAndReceive_eq_next h
  exact ⟨rfl, rfl, rfl, rfl, rfl, rfl, rfl, rfl, List.prefix_append _ _⟩

theorem busNak_frame {s t : State} (h : busNak s = .next t) : EngineFrame s t := by
  obtain ⟨-, rfl⟩ := busNak_eq_next h
  exact ⟨rfl, rfl, rfl, rfl, rfl, rfl, rfl, rfl, List.prefix_append _ _⟩

theorem goTo_frame (c : Command) (s : State) : EngineFrame s (goTo c s) :=
  ⟨rfl, rfl, rfl, rfl, rfl, rfl, rfl, rfl, List.prefix_rfl⟩

theorem complete_frame (v : Word) (s : State) : EngineFrame s (complete v s) :=
  ⟨rfl, rfl, rfl, rfl, rfl, rfl, rfl, rfl, List.prefix_rfl⟩

theorem waitStep_frame (c : Bool) (go : Command) (s : State) : EngineFrame s (waitStep c go s) := by
  cases c
  · exact .refl s
  · exact goTo_frame go s

theorem busAddrPhase_frame (ab : Byte) (s : State) : EngineFrame s (busAddrPhase ab s) :=
  ⟨rfl, rfl, rfl, rfl, rfl, rfl, rfl, rfl, List.prefix_append _ _⟩

theorem engineStep_frame {s t : State} (hc : ∀ c, s.cmd = some c → c.oneStep = false)
    (h : engineStep s = .next t) : EngineFrame s t := by
  unfold engineStep at h
  split at h
  · cases h
    exact .refl s
  · exact absurd (hc _ ‹_›) (by simp [Command.oneStep])
  · exact absurd (hc _ ‹_›) (by simp [Command.oneStep])
  · exact absurd (hc _ ‹_›) (by simp [Command.oneStep])
  · exact absurd (hc _ ‹_›) (by simp [Command.oneStep])
  · exact absurd (hc _ ‹_›) (by simp [Command.oneStep])
  · exact absurd (hc _ ‹_›) (by simp [Command.oneStep])
  · rename_i a n at_ _
    cases at_ <;> cases h
    · exact ⟨rfl, rfl, rfl, rfl, rfl, rfl, rfl, rfl, List.prefix_append _ _⟩
    · exact waitStep_frame _ _ _
    · exact complete_frame _ _
  · rename_i a n at_ _
    cases at_ <;> cases h
    · exact ⟨rfl, rfl, rfl, rfl, rfl, rfl, rfl, rfl, List.prefix_append _ _⟩
    · exact waitStep_frame _ _ _
    · exact complete_frame _ _
  · rename_i a at_ _
    cases at_ <;> simp only [stepScan] at h
    · cases h
      exact goTo_frame _ _
    · cases h
      exact (busAddrPhase_frame _ _).trans (goTo_frame _ _)
    · cases h
      exact waitStep_frame _ _ _
    · split at h <;> cases h
      · exact complete_frame _ _
      · exact goTo_frame _ _
    · split at h <;> cases h
      · exact complete_frame _ _
      · exact goTo_frame _ _
  · rename_i b at_ _
    cases at_ <;> simp only [stepWrite] at h
    · cases h
      exact ⟨rfl, rfl, rfl, rfl, rfl, rfl, rfl, rfl, List.prefix_rfl⟩
    · cases h
      exact waitStep_frame _ _ _
    · exact (goTo_frame _ _).trans (busSendData_frame h)
    · cases h
      exact waitStep_frame _ _ _
    · cases h
      exact complete_frame _ _
  · rename_i p l i at_ _
    cases at_ <;> simp only [stepWriteBytes] at h
    · cases h
      exact goTo_frame _ _
    · split at h <;> cases h
      · exact complete_frame _ _
      · exact goTo_frame _ _
    · cases h
      exact ⟨rfl, rfl, rfl, rfl, rfl, rfl, rfl, rfl, List.prefix_rfl⟩
    · cases h
      exact waitStep_frame _ _ _
    · exact (goTo_frame _ _).trans (busSendData_frame h)
    · cases h
      exact waitStep_frame _ _ _
    · split at h <;> cases h
      · exact complete_frame _ _
      · exact goTo_frame _ _
    · cases h
      exact goTo_frame _ _
  · rename_i at_ _
    cases at_ <;> simp only [stepRead] at h
    · cases h
      exact waitStep_frame _ _ _
    · cases h
      exact ⟨rfl, rfl, rfl, rfl, rfl, rfl, rfl, rfl, List.prefix_rfl⟩
    · cases h
      exact goTo_frame _ _
    · rw [acknowledgeByte_eq] at h
      split at h
      · exact (goTo_frame _ _).trans (busNak_frame h)
      · exact (goTo_frame _ _).trans (busAckAndReceive_frame h)
    · cases h
      exact complete_frame _ _
  · rename_i at_ _
    cases at_ <;> simp only [stepReadLast] at h
    · cases h
      exact ⟨rfl, rfl, rfl, rfl, rfl, rfl, rfl, rfl, List.prefix_rfl⟩
    · cases h
      exact waitStep_frame _ _ _
    · cases h
      exact ⟨rfl, rfl, rfl, rfl, rfl, rfl, rfl, rfl, List.prefix_rfl⟩
    · cases h
      exact goTo_frame _ _
    · exact (goTo_frame _ _).trans (busNak_frame h)
    · cases h
      exact complete_frame _ _

theorem engineStep_commandFrame {s t : State} (h : engineStep s = .next t) : CommandFrame s t := by
  by_cases hc : ∀ c, s.cmd = some c → c.oneStep = false
  · exact (engineStep_frame hc h).toCommandFrame
  · unfold engineStep at h
    split at h
    · cases h
      exact .refl s
    · cases h
      exact ⟨rfl, fun _ => rfl, List.prefix_rfl⟩
    · cases h
      exact ⟨rfl, id, List.prefix_append _ _⟩
    · cases h
      exact ⟨rfl, id, List.prefix_rfl⟩
    · cases h
      exact ⟨rfl, id, List.prefix_rfl⟩
    · cases h
      exact ⟨rfl, id, List.prefix_rfl⟩
    · cases h
      exact ⟨rfl, id, List.prefix_rfl⟩
    all_goals
      have hcmd := ‹s.cmd = some _›
      refine absurd (fun c k => ?_) hc
      rw [hcmd] at k
      cases k
      rfl

/-! ## The command after a numbered step -/

/-- The spec's name of a command in progress (30_encoding.md R95). -/
def Command.mnemonic (c : Command) : String :=
  match c with
  | .bmInit _ _ => "BM_INIT"
  | .stop => "STOP"
  | .writeAsync _ _ => "WRITE_ASYNC"
  | .tbInit => "TB_INIT"
  | .tbNow => "TB_NOW"
  | .tbRestart => "TB_RESTART"
  | .start _ _ _ => "START"
  | .restart _ _ _ => "RESTART"
  | .scan _ _ => "SCAN"
  | .write _ _ => "WRITE"
  | .writeBytes _ _ _ _ => "WRITE_BYTES"
  | .read _ => "READ"
  | .readLast _ => "READ_LAST"

/-- No command in progress, or one of that name. -/
def CommandIs (name : String) (cmd : Option Command) : Prop := ∀ c, cmd = some c → c.mnemonic = name

theorem CommandIs.none (name : String) : CommandIs name none := by
  intro c h
  cases h

theorem CommandIs.some {name : String} {c : Command} (h : c.mnemonic = name) : CommandIs name (some c) := by
  intro c' h'
  cases h'
  exact h

theorem busSendData_cmd {b : Byte} {s t : State} (h : busSendData b s = .next t) : t.cmd = s.cmd := by
  obtain ⟨-, rfl⟩ := busSendData_eq_next h
  rfl

theorem busAckAndReceive_cmd {s t : State} (h : busAckAndReceive s = .next t) : t.cmd = s.cmd := by
  obtain ⟨-, rfl⟩ := busAckAndReceive_eq_next h
  rfl

theorem busNak_cmd {s t : State} (h : busNak s = .next t) : t.cmd = s.cmd := by
  obtain ⟨-, rfl⟩ := busNak_eq_next h
  rfl

theorem waitStep_cmd (c : Bool) (go : Command) (s : State) :
    (waitStep c go s).cmd = s.cmd ∨ (waitStep c go s).cmd = some go := by
  cases c
  · exact .inl rfl
  · exact .inr rfl

theorem waitStep_is {name : String} {c : Bool} {go : Command} {s : State} (hs : CommandIs name s.cmd)
    (hg : go.mnemonic = name) : CommandIs name (waitStep c go s).cmd := by
  rcases waitStep_cmd c go s with h | h <;> rw [h]
  · exact hs
  · exact .some hg

/-- A numbered step leaves the same command in progress, or none. -/
theorem engineStep_is {name : String} {s t : State} (hs : CommandIs name s.cmd) (h : engineStep s = .next t) :
    CommandIs name t.cmd := by
  unfold engineStep at h
  split at h
  case h_1 => cases h; exact hs
  case h_2 => cases h; exact .none _
  case h_3 => cases h; exact .none _
  case h_4 => cases h; exact .none _
  case h_5 => cases h; exact .none _
  case h_6 => cases h; exact .none _
  case h_7 => cases h; exact .none _
  case h_8 a n at_ hc =>
    have hn := hs _ hc
    cases at_ <;> cases h
    · exact .some hn
    · exact waitStep_is hs hn
    · exact .none _
  case h_9 a n at_ hc =>
    have hn := hs _ hc
    cases at_ <;> cases h
    · exact .some hn
    · exact waitStep_is hs hn
    · exact .none _
  case h_10 a at_ hc =>
    have hn := hs _ hc
    cases at_ <;> simp only [stepScan] at h
    · cases h
      exact .some hn
    · cases h
      exact .some hn
    · cases h
      exact waitStep_is hs hn
    · split at h <;> cases h
      · exact .none _
      · exact .some hn
    · split at h <;> cases h
      · exact .none _
      · exact .some hn
  case h_11 b at_ hc =>
    have hn := hs _ hc
    cases at_ <;> simp only [stepWrite] at h
    · cases h
      exact .some hn
    · cases h
      exact waitStep_is hs hn
    · rw [busSendData_cmd h]
      exact .some hn
    · cases h
      exact waitStep_is hs hn
    · cases h
      exact .none _
  case h_12 p l i at_ hc =>
    have hn := hs _ hc
    cases at_ <;> simp only [stepWriteBytes] at h
    · cases h
      exact .some hn
    · split at h <;> cases h
      · exact .none _
      · exact .some hn
    · cases h
      exact .some hn
    · cases h
      exact waitStep_is hs hn
    · rw [busSendData_cmd h]
      exact .some hn
    · cases h
      exact waitStep_is hs hn
    · split at h <;> cases h
      · exact .none _
      · exact .some hn
    · cases h
      exact .some hn
  case h_13 at_ hc =>
    have hn := hs _ hc
    cases at_ <;> simp only [stepRead] at h
    · cases h
      exact waitStep_is hs hn
    · cases h
      exact .some hn
    · cases h
      exact .some hn
    · rw [acknowledgeByte_eq] at h
      split at h
      · rw [busNak_cmd h]
        exact .some hn
      · rw [busAckAndReceive_cmd h]
        exact .some hn
    · cases h
      exact .none _
  case h_14 at_ hc =>
    have hn := hs _ hc
    cases at_ <;> simp only [stepReadLast] at h
    · cases h
      exact .some hn
    · cases h
      exact waitStep_is hs hn
    · cases h
      exact .some hn
    · cases h
      exact .some hn
    · rw [busNak_cmd h]
      exact .some hn
    · cases h
      exact .none _

/-! ## Runs of numbered steps -/

theorem engineRun_add (n m : Nat) (s : State) : engineRun (n + m) s = andThen (engineRun n s) (engineRun m) := by
  induction n generalizing s with
  | zero => rw [Nat.zero_add, engineRun, andThen_next]
  | succ n ih =>
    rw [Nat.succ_add, engineRun, engineRun]
    cases engineStep s with
    | next t => exact ih t
    | fault r => rfl
    | refused r => rfl

/-- What every numbered step keeps, every run of them keeps. -/
theorem engineRun_induct {P : State → Prop} (hstep : ∀ {s t : State}, P s → engineStep s = .next t → P t) {n : Nat}
    {s t : State} (hs : P s) (h : engineRun n s = .next t) : P t := by
  induction n generalizing s with
  | zero =>
    cases h
    exact hs
  | succ n ih =>
    obtain ⟨u, hu, hr⟩ := andThen_eq_next h
    exact ih (hstep hs hu) hr

theorem engineRun_is {name : String} {n : Nat} {s t : State} (hs : CommandIs name s.cmd)
    (h : engineRun n s = .next t) : CommandIs name t.cmd :=
  engineRun_induct (P := fun u => CommandIs name u.cmd) engineStep_is hs h

theorem engineRun_commandFrame {n : Nat} {s t : State} (h : engineRun n s = .next t) : CommandFrame s t :=
  engineRun_induct (P := CommandFrame s) (fun k hk => k.trans (engineStep_commandFrame hk)) (.refl s) h

/-- A run of the numbered steps of a command of more than one step. -/
theorem engineRun_frame {name : String} (hname : ∀ c : Command, c.mnemonic = name → c.oneStep = false) {n : Nat}
    {s t : State} (hs : CommandIs name s.cmd) (h : engineRun n s = .next t) : EngineFrame s t :=
  (engineRun_induct (P := fun u => CommandIs name u.cmd ∧ EngineFrame s u)
    (fun k hk => ⟨engineStep_is k.1 hk, k.2.trans (engineStep_frame (fun c hc => hname c (k.1 c hc)) hk)⟩)
    ⟨hs, .refl s⟩ h).2

/-! ## Issuing -/

theorem issue_of_due {s : State} {m : Move} {ms : List Move} (h : s.schedule = m :: ms) (c : Command) :
    issue c s = .next (goTo c s) := by
  rw [issue, engineTurn, goTo_schedule, h]

theorem issue_of_none_due {s : State} (h : s.schedule = []) (c : Command) :
    issue c s = engineRun longestStretch (goTo c s) := by
  rw [issue, engineTurn, goTo_schedule, h]

/-- Either way an issued command has taken some number of its numbered steps. -/
theorem issue_eq_run (c : Command) (s : State) : ∃ n, issue c s = engineRun n (goTo c s) := by
  cases h : s.schedule with
  | nil => exact ⟨longestStretch, issue_of_none_due h c⟩
  | cons m ms => exact ⟨0, issue_of_due h c⟩

theorem issue_commandFrame {c : Command} {s t : State} (h : issue c s = .next t) : CommandFrame s t := by
  obtain ⟨n, hn⟩ := issue_eq_run c s
  rw [hn] at h
  exact (goTo_frame c s).toCommandFrame.trans (engineRun_commandFrame h)

/-- The engine has nothing to do without a command in progress. -/
theorem engineStep_of_no_command {s : State} (h : s.cmd = none) : engineStep s = .next s := by
  rw [engineStep, h]

theorem engineRun_of_no_command {s : State} (h : s.cmd = none) (n : Nat) : engineRun n s = .next s := by
  induction n with
  | zero => rfl
  | succ n ih => rw [engineRun, engineStep_of_no_command h, andThen_next, ih]

theorem engineRun_succ {s t : State} (h : engineStep s = .next t) (n : Nat) :
    engineRun (n + 1) s = engineRun n t := by
  rw [engineRun, h, andThen_next]

end Sys2Proof.Machine
end

