-- ==== Sys2Proof/Laws/Commands.lean ====
section
/-! SUPPORT. What `exec` does, once for every command: it is refused, or it issues the command that Safety names; and
runs of the engine's moves as `performAll` takes them. -/

namespace Sys2Proof.Machine

/-- What an admitted command does (30_encoding.md R104). -/
theorem exec_of_admits {i : Instr} {s : State} (h : admits i s = true) : exec i s = issue (commandOf i s) s := by
  cases i
  case bmInit => rw [exec, execBmInit, (admits_bmInit_iff s).1 h, admitted_none, commandOf]
  case scan => rw [exec, execScan, (admits_scan_iff s).1 h, admitted_none, commandOf]
  case start => rw [exec, execStart, (admits_start_iff _ _ s).1 h, admitted_none, commandOf]
  case restart => rw [exec, execRestart, (admits_restart_iff _ _ s).1 h, admitted_none, commandOf]
  case write => rw [exec, execWrite, (admits_write_iff _ s).1 h, admitted_none, commandOf]
  case writeBytes => rw [exec, execWriteBytes, (admits_writeBytes_iff s).1 h, admitted_none, commandOf]
  case read => rw [exec, execRead, (admits_read_iff s).1 h, admitted_none, commandOf]
  case readLast => rw [exec, execReadLast, (admits_readLast_iff s).1 h, admitted_none, commandOf]
  case stop => rw [exec, execStop, (admits_stop_iff s).1 h, admitted_none, commandOf]
  case writeAsync => rw [exec, execWriteAsync, (admits_writeAsync_iff s).1 h, admitted_none, commandOf]
  case tbInit => rw [exec, execTbInit, (admits_tbInit_iff s).1 h, admitted_none, commandOf]
  case tbNow => rw [exec, execTbNow, (admits_tbNow_iff s).1 h, admitted_none, commandOf]
  case tbRestart => rw [exec, execTbRestart, (admits_tbRestart_iff s).1 h, admitted_none, commandOf]

/-- Where `exec` answers a next state, the command was admitted. -/
theorem exec_eq_next {i : Instr} {s t : State} (h : exec i s = .next t) :
    admits i s = true ∧ issue (commandOf i s) s = .next t := by
  suffices ha : admits i s = true from ⟨ha, exec_of_admits ha ▸ h⟩
  cases i
  case bmInit => exact (admits_bmInit_iff s).2 (admitted_eq_next h).1
  case scan => exact (admits_scan_iff s).2 (admitted_eq_next h).1
  case start => exact (admits_start_iff _ _ s).2 (admitted_eq_next h).1
  case restart => exact (admits_restart_iff _ _ s).2 (admitted_eq_next h).1
  case write => exact (admits_write_iff _ s).2 (admitted_eq_next h).1
  case writeBytes => exact (admits_writeBytes_iff s).2 (admitted_eq_next h).1
  case read => exact (admits_read_iff s).2 (admitted_eq_next h).1
  case readLast => exact (admits_readLast_iff s).2 (admitted_eq_next h).1
  case stop => exact (admits_stop_iff s).2 (admitted_eq_next h).1
  case writeAsync => exact (admits_writeAsync_iff s).2 (admitted_eq_next h).1
  case tbInit => exact (admits_tbInit_iff s).2 (admitted_eq_next h).1
  case tbNow => exact (admits_tbNow_iff s).2 (admitted_eq_next h).1
  case tbRestart => exact (admits_tbRestart_iff s).2 (admitted_eq_next h).1

theorem admits_no_command {i : Instr} {s : State} (h : admits i s = true) : s.cmd = none := by
  simp only [admits, Bool.and_eq_true, Option.isNone_iff_eq_none] at h
  exact h.1.1.1

theorem commandOf_mnemonic (i : Instr) (s : State) : (commandOf i s).mnemonic = mnemonicOf i := by
  cases i <;> rfl

/-- A command after its issue has taken some number of numbered steps. -/
theorem exec_eq_run {i : Instr} {s t : State} (h : exec i s = .next t) :
    ∃ n, engineRun n (goTo (commandOf i s) s) = .next t := by
  obtain ⟨n, hn⟩ := issue_eq_run (commandOf i s) s
  exact ⟨n, hn ▸ (exec_eq_next h).2⟩

theorem exec_commandFrame {i : Instr} {s t : State} (h : exec i s = .next t) : CommandFrame s t :=
  issue_commandFrame (exec_eq_next h).2

/-! ## Runs of moves -/

theorem performAll_append (ms ns : List Move) (s : State) :
    performAll (ms ++ ns) s = andThen (performAll ms s) (performAll ns) := by
  induction ms generalizing s with
  | nil => rw [List.nil_append, performAll, andThen_next]
  | cons m ms ih =>
    rw [List.cons_append, performAll, performAll]
    cases perform m s with
    | next t => exact ih t
    | fault r => rfl
    | refused r => rfl

/-- The engine's moves, one after the other, are a run of numbered steps. -/
theorem performAll_engines (n : Nat) (s : State) : performAll (List.replicate n .engine) s = engineRun n s := by
  induction n generalizing s with
  | zero => rfl
  | succ n ih =>
    rw [List.replicate_succ, performAll, perform, engineRun]
    cases engineStep s with
    | next t => exact ih t
    | fault r => rfl
    | refused r => rfl

/-- A command and the engine's moves after it, as one run of numbered steps. -/
theorem exec_then_engines {i : Instr} {s t u : State} {n : Nat} (h : exec i s = .next t)
    (k : performAll (List.replicate n .engine) t = .next u) :
    ∃ m, engineRun m (goTo (commandOf i s) s) = .next u := by
  obtain ⟨m, hm⟩ := exec_eq_run h
  rw [performAll_engines] at k
  exact ⟨m + n, by rw [engineRun_add, hm, andThen_next, k]⟩

end Sys2Proof.Machine
end

