-- ==== Sys2Proof/Laws/Memory.lean ====
section
/-! SUPPORT. Host memory (20_memory.md R61, R62): a write is read back, it leaves every other address alone, and it
keeps the canonical form. -/

namespace Sys2Proof.Machine

theorem cellsFrom_cons_iff (lo k : Nat) (v : Byte) (m : Memory) :
    cellsFrom lo ((k, v) :: m) = true ↔
      lo ≤ k ∧ k < 2 ^ 32 ∧ v ≠ unlistedByte ∧ cellsFrom (k + 1) m = true := by
  simp [cellsFrom, and_assoc]

theorem cellsFrom_mono {lo lo' : Nat} {m : Memory} (h : cellsFrom lo m = true) (hl : lo' ≤ lo) :
    cellsFrom lo' m = true := by
  cases m with
  | nil => rfl
  | cons c m =>
    rw [cellsFrom_cons_iff] at h ⊢
    exact ⟨hl.trans h.1, h.2⟩

/-- An address below every listed one is unlisted. -/
theorem memoryRead_below {m : Memory} {lo a : Nat} (h : cellsFrom lo m = true) (ha : a < lo) :
    memoryRead m a = unlistedByte := by
  induction m generalizing lo with
  | nil => rfl
  | cons c m ih =>
    obtain ⟨k, v⟩ := c
    rw [cellsFrom_cons_iff] at h
    rw [memoryRead, if_neg (by omega)]
    exact ih h.2.2.2 (by omega)

/-- What a write leaves at every address. -/
theorem memoryRead_memoryWrite {m : Memory} {lo : Nat} (h : cellsFrom lo m = true) (a c : Nat) (b : Byte) :
    memoryRead (memoryWrite m a b) c = if c = a then b else memoryRead m c := by
  induction m generalizing lo with
  | nil =>
    simp only [memoryWrite]
    split <;> simp_all [memoryRead]
  | cons cell m ih =>
    obtain ⟨k, v⟩ := cell
    rw [cellsFrom_cons_iff] at h
    simp only [memoryWrite]
    split
    · have hb := memoryRead_below (a := a) h.2.2.2 (by omega)
      have hne : a ≠ k := by omega
      by_cases hc : c = a <;> split <;> simp_all [memoryRead]
    · split
      · subst a
        have hb := memoryRead_below (a := k) h.2.2.2 (by omega)
        by_cases hc : c = k <;> split <;> simp_all [memoryRead]
      · rename_i hne
        simp only [memoryRead, ih h.2.2.2]
        by_cases hck : c = k
        · subst hck
          simp [Ne.symm hne]
        · simp [hck]

theorem cellsFrom_memoryWrite {m : Memory} {lo a : Nat} (h : cellsFrom lo m = true) (hl : lo ≤ a) (ha : a < 2 ^ 32)
    (b : Byte) : cellsFrom lo (memoryWrite m a b) = true := by
  induction m generalizing lo with
  | nil =>
    simp only [memoryWrite]
    split
    · rfl
    · rw [cellsFrom_cons_iff]
      exact ⟨hl, ha, ‹_›, rfl⟩
  | cons cell m ih =>
    obtain ⟨k, v⟩ := cell
    have hm := h
    rw [cellsFrom_cons_iff] at h
    simp only [memoryWrite]
    split
    · split
      · exact hm
      · rw [cellsFrom_cons_iff, cellsFrom_cons_iff]
        exact ⟨hl, ha, ‹_›, by omega, h.2⟩
    · split
      · split
        · exact cellsFrom_mono h.2.2.2 (by omega)
        · rw [cellsFrom_cons_iff]
          subst a
          exact ⟨hl, ha, ‹_›, h.2.2.2⟩
      · rw [cellsFrom_cons_iff]
        exact ⟨h.1, h.2.1, h.2.2.1, ih h.2.2.2 (by omega)⟩

/-- The one operation that writes memory keeps its canonical form. -/
theorem hostStore_wf (a : Word) (b : Byte) (s : State) (h : Memory.wf s.mem = true) :
    Memory.wf (hostStore a b s).mem = true :=
  cellsFrom_memoryWrite h (Nat.zero_le _) a.isLt b

theorem memRead_hostStore (a c : Word) (b : Byte) (s : State) (h : Memory.wf s.mem = true) :
    memRead (hostStore a b s) c = if c = a then b else memRead s c := by
  have := memoryRead_memoryWrite h a.toNat c.toNat b
  simpa [memRead, hostStore, BitVec.toNat_inj] using this

/-- Reading a byte depends on the memory alone. -/
theorem memRead_congr {s t : State} (h : t.mem = s.mem) (a : Word) : memRead t a = memRead s a := by
  rw [memRead, memRead, h]

theorem reset_memory_wf : Memory.wf State.reset.mem = true := rfl

end Sys2Proof.Machine
end

