-- ==== Sys2Proof/Laws/PerInstr.lean ====
section
/-! SUPPORT. Statements made for every command, one lemma per constructor of `Instr`. -/

namespace Sys2Proof.Laws

/-- The word of every command is a legal command word (30_encoding.md R91, R95, R97). -/
def EncodedWordWellFormed.Statement (i : Instr) : Prop := wellFormedWord (encode i) = true

theorem wellFormedWord_of_fields {w : Word} {op : Byte} {f : Format} (ho : opcodeField w = op)
    (hf : formatOf op = some f) (hr : w &&& reservedBits f = 0#32) : wellFormedWord w = true := by
  rw [opcodeField] at ho
  simp [wellFormedWord, ho, hf, hr]

theorem EncodedWordWellFormed.bmInit : EncodedWordWellFormed.Statement .bmInit := by
  unfold EncodedWordWellFormed.Statement
  decide

theorem EncodedWordWellFormed.scan : EncodedWordWellFormed.Statement .scan := by
  unfold EncodedWordWellFormed.Statement
  decide

theorem EncodedWordWellFormed.start (addr : BusAddress) (readCount : Byte) :
    EncodedWordWellFormed.Statement (.start addr readCount) :=
  wellFormedWord_of_fields (opcodeField_encodeAddressed 0x03#8 addr readCount) (f := .ca) (by decide)
    ((reserved_addressed_iff _).2 (reserved_encodeAddressed 0x03#8 addr readCount))

theorem EncodedWordWellFormed.restart (addr : BusAddress) (readCount : Byte) :
    EncodedWordWellFormed.Statement (.restart addr readCount) :=
  wellFormedWord_of_fields (opcodeField_encodeAddressed 0x04#8 addr readCount) (f := .ca) (by decide)
    ((reserved_addressed_iff _).2 (reserved_encodeAddressed 0x04#8 addr readCount))

theorem EncodedWordWellFormed.write (byte : Byte) : EncodedWordWellFormed.Statement (.write byte) :=
  wellFormedWord_of_fields (opcodeField_encodeByte 0x05#8 byte) (f := .cb) (by decide)
    ((reserved_byte_iff _).2 (reserved_encodeByte 0x05#8 byte))

theorem EncodedWordWellFormed.writeBytes : EncodedWordWellFormed.Statement .writeBytes := by
  unfold EncodedWordWellFormed.Statement
  decide

theorem EncodedWordWellFormed.read : EncodedWordWellFormed.Statement .read := by
  unfold EncodedWordWellFormed.Statement
  decide

theorem EncodedWordWellFormed.readLast : EncodedWordWellFormed.Statement .readLast := by
  unfold EncodedWordWellFormed.Statement
  decide

theorem EncodedWordWellFormed.stop : EncodedWordWellFormed.Statement .stop := by
  unfold EncodedWordWellFormed.Statement
  decide

theorem EncodedWordWellFormed.writeAsync : EncodedWordWellFormed.Statement .writeAsync := by
  unfold EncodedWordWellFormed.Statement
  decide

theorem EncodedWordWellFormed.tbInit : EncodedWordWellFormed.Statement .tbInit := by
  unfold EncodedWordWellFormed.Statement
  decide

theorem EncodedWordWellFormed.tbNow : EncodedWordWellFormed.Statement .tbNow := by
  unfold EncodedWordWellFormed.Statement
  decide

theorem EncodedWordWellFormed.tbRestart : EncodedWordWellFormed.Statement .tbRestart := by
  unfold EncodedWordWellFormed.Statement
  decide

end Sys2Proof.Laws
end

