-- ==== Sys2Proof/Tests/Slice0.lean ====
section
/-! SUPPORT. The model's own tests. The expected results are those of 95_test_vectors.md, named beside each test; the
witness theorems give, for each statement with hypotheses, states that meet them. -/

namespace Sys2Proof.Tests

open Sys2Proof.Machine

/-! ## Helpers -/

/-- A view of the next state, `none` where there is none. -/
def sees {α : Type} (o : Host.Outcome State Fault Refusal) (f : State → α) : Option α :=
  match o with
  | .next t => some (f t)
  | .fault _ => none
  | .refused _ => none

/-- The reason of a refusal. -/
def refusal (o : Host.Outcome State Fault Refusal) : Option Refusal :=
  match o with
  | .refused r => some r
  | .next _ => none
  | .fault _ => none

/-- After BM_INIT, with the unspecified fields 0. -/
def enabled : State := { State.reset with bm := { State.reset.bm with en := true } }

/-- After an acknowledged START in write direction. -/
def writing : State :=
  { enabled with
    bm := { enabled.bm with phase := .dataWrite, wif := true }
    trace := [.start, .tx 0x78#8, .slave .ack] }

/-- After an acknowledged START in read direction and one received byte. -/
def reading (count data : Byte) : State :=
  { enabled with
    bm := { enabled.bm with phase := .dataRead, dir := .read, rif := true, rdcnt := count, data := data }
    trace := [.start, .tx 0xA1#8, .slave .ack, .rx data] }

/-- As `reading`, the byte still to come. -/
def receiving (count : Byte) : State :=
  { enabled with
    bm := { enabled.bm with phase := .dataRead, dir := .read, inflight := .recv, rdcnt := count }
    trace := [.start, .tx 0xA1#8, .slave .ack] }

/-- A START in write direction whose address byte is in flight. -/
def addressing : State :=
  { enabled with
    bm := { enabled.bm with phase := .address, inflight := .addr }
    trace := [.start, .tx 0x78#8]
    cmd := some (.start 0x3C#7 0#8 .wait) }

/-- A START in write direction that was not acknowledged. -/
def failed : State :=
  { enabled with
    bm := { enabled.bm with phase := .address, wif := true, rxack := .nak }
    trace := [.start, .tx 0x78#8, .slave .nak] }

/-- Three bytes of host memory. -/
def threeBytes : Memory := [(0x2000, 0x3E#8), (0x2001, 0x51#8), (0x2002, 0x49#8)]

/-- `writing` with operands for WRITE_BYTES and WRITE_ASYNC. -/
def sending (ptr len : Word) : State :=
  { writing with ifc := { writing.ifc with arg0 := ptr, arg1 := len }, mem := threeBytes }

/-- An asynchronous write in progress, the cursor at `cur` of a range that ends at 0x2002. -/
def pumping (cur : Word) : State :=
  { writing with
    bm := { writing.bm with txmode := .pump, cur := cur, fin := 0x2002#32, pact := true, wie := true }
    ic := { gie := true }
    mem := threeBytes }

/-- A running timebase. -/
def timed (count : Word) (pend : Bool) : State :=
  { State.reset with
    tb := { count := count, run := true, pend := pend, ie := true, period := 0 }
    ic := { gie := true } }

/-- A state with moves to take. -/
def due (ms : List Move) (s : State) : State := { s with schedule := ms }

/-! ## Encoding (V-ENC, V-AB) -/

theorem test_decode_bm_init : decode 0x01000000#32 = .ok .bmInit := by rfl
theorem test_decode_scan : decode 0x02000000#32 = .ok .scan := by rfl
theorem test_decode_start : decode 0x03007FFF#32 = .ok (.start 0x7F#7 255#8) := by rfl
theorem test_decode_restart : decode 0x04000001#32 = .ok (.restart 0#7 1#8) := by rfl
theorem test_decode_write : decode 0x050000FF#32 = .ok (.write 0xFF#8) := by rfl
theorem test_decode_write_bytes : decode 0x06000000#32 = .ok .writeBytes := by rfl
theorem test_decode_read : decode 0x07000000#32 = .ok .read := by rfl
theorem test_decode_read_last : decode 0x08000000#32 = .ok .readLast := by rfl
theorem test_decode_stop : decode 0x09000000#32 = .ok .stop := by rfl
theorem test_decode_write_async : decode 0x0A000000#32 = .ok .writeAsync := by rfl
theorem test_decode_tb_init : decode 0x10000000#32 = .ok .tbInit := by rfl
theorem test_decode_tb_now : decode 0x11000000#32 = .ok .tbNow := by rfl
theorem test_decode_tb_restart : decode 0x12000000#32 = .ok .tbRestart := by rfl

theorem test_decode_reserved_opcodes :
    decode 0x00000000#32 = .error .unknownOpcode ∧ decode 0x0B000000#32 = .error .unknownOpcode ∧
    decode 0x0F000000#32 = .error .unknownOpcode ∧ decode 0x13000000#32 = .error .unknownOpcode ∧
    decode 0xFFFFFFFF#32 = .error .unknownOpcode := ⟨rfl, rfl, rfl, rfl, rfl⟩

/-- One ill-formed word for each check of WellFormed: the opcode, and the reserved bits of each format. -/
theorem test_ill_formed_words :
    wellFormedWord 0x0B000000#32 = false ∧ wellFormedWord 0x03008000#32 = false ∧
    wellFormedWord 0x03010000#32 = false ∧ wellFormedWord 0x05000100#32 = false ∧
    wellFormedWord 0x09000001#32 = false ∧ wellFormedWord 0x06000001#32 = false ∧
    wellFormedWord 0x01000001#32 = false := by decide

theorem test_encode_start : encode (.start 0x3C#7 1#8) = 0x03003C01#32 := by decide

theorem test_address_bytes :
    addressByte 0x3C#7 .write = 0x78#8 ∧ addressByte 0x50#7 .read = 0xA1#8 ∧ addressByte 0x7F#7 .write = 0xFE#8 ∧
    addressByte 0#7 .read = 0x01#8 := by decide

theorem test_decode_table_word : decodeTableWord 32 0x04005002 = some (.restart 0x50#7 2#8) := by rfl

/-! ## Commands, one step each -/

/-- V-ENC: `STATUS` is 0x10000000 after an illegal word from reset. -/
theorem test_illegal_word : sees (step (State.reset.withFetchWord 32 0x13000000)) statusWord = some 0x10000000#32 := by
  decide

/-- P1 step 2. -/
theorem test_bm_init :
    sees (exec .bmInit { State.reset with ifc := { State.reset.ifc with arg0 := 100000#32 } }) statusWord =
      some 0x00000100#32 := by decide

/-- V-ADDR: `START 0x3C,0` puts its address byte on the bus and waits. -/
theorem test_start :
    sees (exec (.start 0x3C#7 0#8) enabled) (fun t => (t.trace, statusWord t)) =
      some ([.start, .tx 0x78#8], 0x00004120#32) := by decide

/-- V-ADDR: `START 0x50,2` before BM_INIT is refused. -/
theorem test_start_before_init : refusal (exec (.start 0x50#7 2#8) State.reset) = some .notEnabled := by decide

/-- P2 step 3: the address phase of `RESTART 0x50,2` after a write. -/
theorem test_restart :
    sees (exec (.restart 0x50#7 2#8) writing) (fun t => (t.trace.drop 3, t.bm.rdcnt, t.bm.dir)) =
      some ([.start, .tx 0xA1#8], 2#8, .read) := by decide

/-- E7: the first probe of SCAN is address 0. -/
theorem test_scan :
    sees (exec .scan enabled) (fun t => (t.trace, t.cmd)) =
      some ([.start, .tx 0x00#8], some (.scan 0#7 .wait)) := by decide

/-- V-ADDR: STOP after an acknowledged START. -/
theorem test_stop :
    sees (exec .stop writing) (fun t => (t.trace.drop 3, statusWord t)) = some ([.stop], 0x00000100#32) := by decide

/-- V-ADDR: STOP after a lost arbitration puts nothing on the bus. -/
theorem test_stop_lost :
    sees (exec .stop { failed with bm := { failed.bm with rxack := .ack, arblost := true } })
      (fun t => (t.trace.drop 3, statusWord t)) = some ([], 0x00000100#32) := by decide

/-- V-WR: WRITE 0xAF transmits and waits for the slave. -/
theorem test_write :
    sees (exec (.write 0xAF#8) writing) (fun t => (t.trace.drop 3, t.bm.wif, t.bm.inflight)) =
      some ([.tx 0xAF#8], false, .data) := by decide

/-- V-WR: WRITE in DataRead is refused. -/
theorem test_write_in_read : refusal (exec (.write 0#8) (reading 1#8 0#8)) = some .wrongPhase := by decide

/-- V-WR: WRITE_BYTES sends the first byte of its range. -/
theorem test_write_bytes :
    sees (exec .writeBytes (sending 0x2000#32 3#32)) (fun t => t.trace.drop 3) = some [.tx 0x3E#8] := by decide

/-- V-WR: the empty range returns 1 and leaves TXMODE None. -/
theorem test_write_bytes_empty :
    sees (exec .writeBytes (sending 0x2000#32 0#32)) (fun t => (t.ifc.result, t.bm.txmode, t.trace.drop 3)) =
      some (1#32, .none, []) := by decide

/-- V-RD: the last READ sends NAK. -/
theorem test_read_last_byte :
    sees (exec .read (reading 1#8 0x55#8)) (fun t => (t.ifc.result, t.bm.rdcnt, t.trace.drop 4, t.bm.inflight)) =
      some (0x55#32, 0#8, [.master .nak], .none) := by decide

/-- V-RD: READ with a counter of 255 sends ACK and goes on to receive. -/
theorem test_read_more :
    sees (exec .read (reading 255#8 0#8)) (fun t => (t.ifc.result, t.bm.rdcnt, t.trace.drop 4, t.bm.inflight)) =
      some (0#32, 254#8, [.master .ack], .recv) := by decide

/-- V-RD: READ_LAST with a counter of 4. -/
theorem test_read_last :
    sees (exec .readLast (reading 4#8 0x7F#8)) (fun t => (t.ifc.result, t.bm.rdcnt, t.trace.drop 4)) =
      some (0x7F#32, 0#8, [.master .nak]) := by decide

/-- V-PUMP: WRITE_ASYNC with ARG0 = 0x2000, ARG1 = 2, after TB_INIT. -/
theorem test_write_async :
    sees (exec .writeAsync { sending 0x2000#32 2#32 with tb := (timed 0#32 false).tb, ic := { gie := true } })
      (fun t => (statusWord t, t.bm.cur, t.bm.fin)) = some (0x0D002741#32, 0x2000#32, 0x2002#32) := by decide

/-- V-PUMP: the end of a range that touches the top of the address space is 0. -/
theorem test_write_async_top :
    sees (exec .writeAsync (sending 0xFFFFFFFF#32 1#32)) (fun t => t.bm.fin) = some 0#32 := by decide

/-- V-TB: TB_INIT from reset; TB.PEND stays 0 whatever is drawn. -/
theorem test_tb_init :
    sees (exec .tbInit State.reset) (fun t => (t.tb.count, t.tb.run, t.tb.ie, t.tb.pend, t.ic.gie)) =
      some (0#32, true, true, false, true) := by rfl

theorem test_tb_restart : sees (exec .tbRestart (timed 7#32 true)) (fun t => t.tb.count) = some 0#32 := by decide

/-- V-TB: TB_NOW does not count a pending tick. -/
theorem test_tb_now : sees (exec .tbNow (timed 5#32 true)) (fun t => t.ifc.result) = some 5#32 := by decide

theorem test_tb_now_from_reset : refusal (exec .tbNow State.reset) = some .timebaseNotInitialised := by decide

/-- R80, R104: with a tick due after it, the issue of TB_NOW takes no numbered step. -/
theorem test_issue_alone :
    sees (step (due [.host (.command 0x11000000#32), .tick] (timed 5#32 false)))
      (fun t => (t.cmd, t.ifc.result, t.schedule)) = some (some .tbNow, 0#32, [.tick]) := by decide

/-- R80: a read of `IF.STATUS` between the issue of STOP and its step still shows DataWrite and the write condition. -/
theorem test_status_before_first_step :
    sees (performAll [.host (.command 0x09000000#32), .host .readStatus] (due [.engine] writing))
      (fun t => (t.cmd, t.readout)) = some (some .stop, 0x00000141#32) := by decide

/-! ## Steps that are no commands -/

/-- V-TB: the counter wraps. -/
theorem test_timer_handler_wraps :
    sees (perform .timerIrq (timed 0xFFFFFFFF#32 true)) (fun t => (t.tb.count, t.tb.pend)) = some (0#32, false) := by
  decide

/-- V-TB: a tick while one is pending is lost. -/
theorem test_tick_lost :
    sees (perform .tick (timed 5#32 true)) (fun t => (t.tb.count, t.tb.pend)) = some (5#32, true) := by decide

/-- V-PUMP: firing 1 sends the byte at the cursor. -/
theorem test_pump_sends :
    sees (perform .pumpIrq (pumping 0x2000#32)) (fun t => (t.trace.drop 3, t.bm.cur, t.bm.wif, t.bm.inflight)) =
      some ([.tx 0x3E#8], 0x2001#32, false, .data) := by decide

/-- V-PUMP: the last firing marks completion and sends nothing. -/
theorem test_pump_finishes :
    sees (perform .pumpIrq (pumping 0x2002#32)) (fun t => (t.trace.drop 3, t.bm.pdone, t.bm.pact, t.bm.wie)) =
      some ([], true, false, false) := by decide

/-- V-ADDR: the slave does not acknowledge. -/
theorem test_address_nak :
    sees (perform (.env (.addr .nak)) addressing) statusWord = some 0x00000125#32 := by decide

/-- V-ADDR: acknowledged in read direction, the first byte outstanding. -/
theorem test_address_read_ack :
    sees (perform (.env (.addr .ack)) { addressing with bm := { addressing.bm with dir := .read, rdcnt := 2#8 } })
      statusWord = some 0x0002C1E0#32 := by decide

/-- V-ADDR: the first byte arrives. -/
theorem test_receive :
    sees (perform (.env (.recv 0xAB#8)) (receiving 2#8)) (fun t => (statusWord t, t.bm.data)) =
      some (0x000201E2#32, 0xAB#8) := by decide

/-! ## Witnesses: the hypotheses of the statements can be met -/

/-- Any outcome that is a next state has that next state. -/
theorem next_of_sees {o : Host.Outcome State Fault Refusal} (h : (sees o fun _ => true) = some true) :
    ∃ t, o = .next t := by
  cases o with
  | next t => exact ⟨t, rfl⟩
  | fault r => cases h
  | refused r => cases h

theorem witness_EncodeRebuildsEveryDecodedWord : decode 0x03003C00#32 = .ok (.start 0x3C#7 0#8) := by rfl

theorem witness_DecodeFollowsTheOpcodeTable :
    decode 0xFFFFFFFF#32 = .error .unknownOpcode ∧ decode 0x03007FFF#32 = .ok (.start 0x7F#7 255#8) ∧
    decode 0x04000001#32 = .ok (.restart 0#7 1#8) ∧ decode 0x05000000#32 = .ok (.write 0#8) := ⟨rfl, rfl, rfl, rfl⟩

theorem witness_IllegalWordsOnlySetCmdfault :
    wellFormedWord 0x09000001#32 = false ∧ (due [.host (.command 0x09000001#32)] addressing).schedule =
      .host (.command 0x09000001#32) :: [] ∧ ∃ t, exec .stop writing = .next t :=
  ⟨by decide, rfl, next_of_sees (by decide)⟩

theorem witness_AddressByteCarriesAddressAndDirection :
    admits (.start 0x7F#7 0#8) enabled = true ∧ admits (.restart 0#7 255#8) writing = true ∧
    { enabled with cmd := some (.scan 127#7 .probe) }.cmd = some (.scan 127#7 .probe) := by decide

theorem witness_StepRunsTheDecodedCommand :
    (due [.host (.command 0x07000000#32), .engine] (reading 1#8 0#8)).schedule =
      .host (.command 0x07000000#32) :: [.engine] ∧ decode 0x07000000#32 = .ok .read := ⟨rfl, rfl⟩

theorem witness_StepTakesTheNextMove :
    (due [.tick] writing).schedule = .tick :: [] ∧ addressing.schedule = [] ∧ ∃ t, step addressing = .next t :=
  ⟨rfl, rfl, next_of_sees (by decide)⟩

theorem witness_StatusShowsEveryField :
    (due [.host .readStatus] addressing).schedule = .host .readStatus :: [] := by rfl

theorem witness_HostReachesItsRegistersBetweenCommands : writing.cmd = none ∧ addressing.cmd ≠ none := by decide

theorem witness_OnlyResetClearsTheStickyBits :
    (∃ s t : State, step s = .next t ∧ (∀ ms, s.schedule ≠ .powerOn :: ms) ∧ s.ifc.cmdfault = true ∧
      s.bm.en = true ∧ s.tb.run = true ∧ s.tb.ie = true) ∧
    (due [.powerOn] writing).schedule = .powerOn :: [] :=
  ⟨⟨{ writing with tb := (timed 0#32 false).tb, ifc := { writing.ifc with cmdfault := true } }, _, rfl,
    by simp [writing, enabled, State.reset], rfl, rfl, rfl, rfl⟩, rfl⟩


theorem witness_BusMasterIsEnabledByInitOnly :
    admits .bmInit { State.reset with ifc := { State.reset.ifc with arg0 := 1#32 } } = true ∧
    (∃ t, exec .stop writing = .next t) ∧ writing.bm.en = true ∧
    (∃ t, engineStep addressing = .next t) ∧ addressing.bm.en = true ∧
    (∀ hz ns, addressing.cmd ≠ some (.bmInit hz ns)) ∧ State.reset.bm.en = false ∧
    isTimebaseCommand .scan = false :=
  ⟨by decide, next_of_sees (by decide), rfl, ⟨_, rfl⟩, rfl, by simp [addressing], rfl, rfl⟩

theorem witness_PumpExcludesBusCommands :
    (pumping 0x2000#32).cmd = none ∧ (pumping 0x2000#32).bm.pact = true ∧ isTimebaseCommand .stop = false ∧
    { pumping 0x2000#32 with tb := (timed 0#32 false).tb }.tb.run = true ∧
    (writing.cmd = none ∧ writing.bm.pact = false ∧ writing.bm.en = true ∧ writing.bm.phase = .dataWrite) ∧
    { writing.bm with txmode := .pump }.txmode = .pump ∧ { writing.bm with txmode := .polling }.txmode = .polling ∧
    ∃ t, engineStep { writing with cmd := some .stop } = .next t :=
  ⟨rfl, rfl, rfl, rfl, ⟨rfl, rfl, rfl, rfl⟩, rfl, rfl, next_of_sees (by decide)⟩

theorem witness_SecondCommandIsRefused : addressing.cmd ≠ none := by decide

theorem witness_OperandConditionsRefuseByName :
    (let s := sending 0xFFFFFFFF#32 2#32
     admits .writeBytes { s with ifc := { s.ifc with arg1 := 0#32 } } = true ∧
     admits .writeAsync { s with ifc := { s.ifc with arg1 := 0#32 } } = true ∧
     s.ifc.arg0.toNat + s.ifc.arg1.toNat > 2 ^ 32) ∧
    (admits .bmInit { State.reset with ifc := { State.reset.ifc with arg0 := 1#32 } } = true ∧
     State.reset.ifc.arg0 = 0#32) ∧
    (State.reset.cmd = none ∧ State.reset.tb.run = false) := by decide

theorem witness_TimebaseStartsAtZero : writing.cmd = none := by decide

theorem witness_NowReturnsTheCount : (timed 5#32 true).cmd = none ∧ (timed 5#32 true).tb.run = true := by decide

theorem witness_TickAndTimerHandler :
    ((due [.tick] (timed 5#32 false)).schedule = .tick :: [] ∧ (timed 5#32 false).tb.run = true) ∧
    State.reset.tb.run = false ∧
    ((due [.timerIrq] (timed 5#32 true)).schedule = .timerIrq :: [] ∧
      (timed 5#32 true).tb.pend = true ∧ (timed 5#32 true).tb.ie = true ∧ (timed 5#32 true).ic.gie = true) ∧
    (timed 5#32 false).tb.pend = false := by decide

/-- With nothing else scheduled, where the issue goes on to the step. -/
theorem witness_NowCountsTheFirings :
    ∃ t u v, ([.tick, .timerIrq] : List Move).all keepsTimebase = true ∧ restartStep State.reset t ∧
      performAll [.tick, .timerIrq] t = .next u ∧ nowStep u v :=
  ⟨_, _, _, rfl, .inr ⟨rfl, rfl⟩, rfl, .inr ⟨rfl, rfl⟩⟩

/-- With moves scheduled: TB_NOW takes its step, and after a tick and a firing another TB_NOW is issued and takes its
own. -/
theorem witness_NowCountsTheFirings_in_progress :
    ∃ t u v, ([.tick, .timerIrq, .host (.command (encode .tbNow))] : List Move).all keepsTimebase = true ∧
      nowStep (due [.engine] { timed 5#32 false with cmd := some .tbNow }) t ∧
      performAll [.tick, .timerIrq, .host (.command (encode .tbNow))] t = .next u ∧ nowStep u v :=
  ⟨_, _, _, rfl, .inl ⟨rfl, rfl⟩, rfl, .inl ⟨rfl, rfl⟩⟩

theorem witness_TimebaseAndInterruptEnableWriters :
    { writing with cmd := some .tbInit }.cmd = some .tbInit ∧
    { writing with cmd := some .tbRestart }.cmd = some .tbRestart ∧
    (∃ t, step (due [.timerIrq] (timed 5#32 true)) = .next t) ∧ State.reset.tb.run = false ∧
    State.reset.ic.gie = false := ⟨rfl, rfl, next_of_sees (by decide), rfl, rfl⟩

theorem witness_TimebaseCommandsLeaveTheBusAlone :
    (∃ t u, exec .tbInit (due [.tick] writing) = .next t ∧ performAll (List.replicate 1 .engine) t = .next u) ∧
    (∃ t u, exec .tbRestart writing = .next t ∧ performAll (List.replicate 0 .engine) t = .next u) ∧
    (∃ t u, exec .tbNow (timed 5#32 true) = .next t ∧ performAll (List.replicate 1 .engine) t = .next u) :=
  ⟨⟨_, _, rfl, rfl⟩, ⟨_, _, rfl, rfl⟩, ⟨_, _, rfl, rfl⟩⟩

theorem witness_BmInitSetsBusIdle :
    admits .bmInit { State.reset with ifc := { State.reset.ifc with arg0 := 1#32 } } = true ∧
    admits .bmInit { enabled with ifc := { enabled.ifc with arg0 := 0xFFFFFFFF#32 } } = true := by decide

theorem witness_BmInitFrame :
    (∃ t u, exec .bmInit { State.reset with ifc := { State.reset.ifc with arg0 := 1#32 } } = .next t ∧ performAll (List.replicate 1 .engine) t = .next u) :=
  ⟨_, _, rfl, rfl⟩

theorem witness_StartIssuesOneAddressPhase :
    admits (.start 0#7 0#8) enabled = true ∧ admits (.restart 127#7 255#8) failed = true ∧
    admits (.start 0x3C#7 1#8) writing = true := by decide

theorem witness_WriteDirectionStartOutcomes :
    admits (.start 0x3C#7 0#8) enabled = true ∧ admits (.restart 0x3C#7 0#8) writing = true := by decide

theorem witness_ReadDirectionStartOutcomes :
    admits (.start 0x50#7 1#8) enabled = true ∧ admits (.restart 0x50#7 255#8) writing = true := by decide

theorem witness_ScanFindsTheFirstAddress :
    admits .scan enabled = true ∧ (∀ x ∈ List.replicate 127 AddrAnswer.nak, x ≠ .ack) ∧
    (∀ x ∈ List.replicate 128 AddrAnswer.busErr, x ≠ .ack) ∧
    (List.replicate 127 AddrAnswer.nak).length < 128 ∧ (List.replicate 128 AddrAnswer.busErr).length = 128 :=
  ⟨by decide, by simp, by simp, by simp, by simp⟩

theorem witness_AddressCommandsFrame :
    (∃ t u, exec .scan (due [.tick] enabled) = .next t ∧ performAll (List.replicate 3 .engine) t = .next u) ∧
    (∃ t u, exec (.start 0x3C#7 0#8) enabled = .next t ∧ performAll (List.replicate 1 .engine) t = .next u) ∧
    (∃ t u, exec (.restart 0x3C#7 2#8) writing = .next t ∧ performAll (List.replicate 0 .engine) t = .next u) :=
  ⟨⟨_, _, rfl, rfl⟩, ⟨_, _, rfl, rfl⟩, ⟨_, _, rfl, rfl⟩⟩

theorem witness_StopReturnsToIdle : admits .stop writing = true ∧ admits .stop failed = true := by decide

theorem witness_StopFrame :
    (∃ t u, exec .stop (due [.tick] failed) = .next t ∧ performAll (List.replicate 1 .engine) t = .next u) :=
  ⟨_, _, rfl, rfl⟩

theorem witness_EnvironmentAnswersAnAddressByte :
    (due [.env (.addr .arbLostAndBusErr)] addressing).schedule = .env (.addr .arbLostAndBusErr) :: [] ∧
    addressing.bm.inflight = .addr ∧ addressing.bm.dir = .write ∧
    { addressing.bm with dir := .read }.dir = .read := by decide

theorem witness_EnvironmentCompletesDataTransfers :
    ((due [.env (.recv 0#8)] (receiving 1#8)).schedule = .env (.recv 0#8) :: [] ∧
      (receiving 1#8).bm.inflight = .recv) ∧
    (writing.bm.phase = .dataWrite ∧ writing.bm.wif = true) ∧
    ((due [.env (.data .nak)] writing).schedule = .env (.data .nak) :: [] ∧
      { writing.bm with inflight := .data }.inflight = .data) := by decide

theorem witness_BusFailureElsewhereIsRefused :
    (due [.env (.addr .arbLost)] writing).schedule = .env (.addr .arbLost) :: [] ∧ AddrAnswer.arbLost ≠ .ack ∧
    AddrAnswer.arbLost ≠ .nak ∧ writing.bm.inflight ≠ .addr ∧ writing.bm.phase ≠ .idle := by decide

theorem witness_WriteTransmitsAndReports :
    admits (.write 0xAF#8) writing = true ∧ writing.bm.wif = true ∧ writing.schedule = [] ∧
    admits (.write 0xAF#8) (due [.tick] writing) = true := by decide

theorem witness_WriteBytesStopsAtTheFirstNak :
    (admits .writeBytes (sending 0x2000#32 3#32) = true ∧ (sending 0x2000#32 3#32).bm.wif = true ∧
      2 < (sending 0x2000#32 3#32).ifc.arg1.toNat ∧ 2 + 1 = (sending 0x2000#32 3#32).ifc.arg1.toNat) ∧
    (admits .writeBytes (sending 0x2000#32 0#32) = true ∧ (sending 0x2000#32 0#32).ifc.arg1 = 0#32) ∧
    admits .writeBytes (sending 0xFFFFFFFF#32 1#32) = true := by decide

theorem witness_WriteCommandsFrame :
    (∃ t u, exec (.write 0xAF#8) (due [.tick] writing) = .next t ∧ performAll (List.replicate 3 .engine) t = .next u) ∧
    (∃ t u, exec .writeBytes (sending 0x2000#32 3#32) = .next t ∧ performAll (List.replicate 5 .engine) t = .next u) :=
  ⟨⟨_, _, rfl, rfl⟩, ⟨_, _, rfl, rfl⟩⟩

theorem witness_ReadTakesTheByteAndAcknowledges :
    (admits .read (reading 0#8 0x55#8) = true ∧ (reading 0#8 0x55#8).bm.rif = true) ∧
    admits .read (reading 1#8 0x55#8) = true ∧ admits .read (reading 2#8 0x55#8) = true ∧
    (reading 2#8 0x55#8).schedule = [] := by decide

theorem witness_ReadWaitsForTheByte :
    (admits .read (receiving 1#8) = true ∧ (receiving 1#8).bm.rif = false ∧ (receiving 1#8).bm.inflight = .recv) ∧
    (let after := { receiving 0#8 with bm := { (receiving 0#8).bm with inflight := .none } }
     admits .read after = true ∧ after.bm.rif = false ∧ after.bm.inflight = .none) := by
  decide

theorem witness_ReadLastAlwaysSendsNak :
    admits .readLast (reading 255#8 0x7F#8) = true ∧ (reading 255#8 0x7F#8).bm.rif = true := by decide

theorem witness_ReadsAcknowledgeAllButTheLast :
    (admits .read (reading 1#8 0x55#8) = true ∧ (reading 1#8 0x55#8).bm.rif = true ∧
      (reading 1#8 0x55#8).bm.rdcnt.toNat = ([] : List Byte).length + 1) ∧
    (reading 3#8 0x55#8).bm.rdcnt.toNat = [0x66#8, 0x77#8].length + 1 := by decide

theorem witness_ReadCommandsFrame :
    (∃ t u, exec .read (due [.tick] (reading 3#8 0x55#8)) = .next t ∧ performAll (List.replicate 5 .engine) t = .next u) ∧
    (∃ t u, exec .readLast (receiving 3#8) = .next t ∧ performAll (List.replicate 1 .engine) t = .next u) :=
  ⟨⟨_, _, rfl, rfl⟩, ⟨_, _, rfl, rfl⟩⟩

theorem witness_OnlyReadDirectionStartsRaiseTheCounter :
    ∃ t, step (enabled.withFetchWord 32 0x03005002) = .next t ∧
      (enabled.withFetchWord 32 0x03005002).bm.rdcnt < t.bm.rdcnt := by
  refine ⟨_, rfl, ?_⟩
  decide

theorem witness_WriteAsyncArmsThePump :
    admits .writeAsync (sending 0x2000#32 2#32) = true ∧ admits .writeAsync (sending 0xFFFFFFFF#32 1#32) = true := by
  decide

theorem witness_WriteAsyncFrame :
    (∃ t u, exec .writeAsync (due [.tick] (sending 0x2000#32 2#32)) = .next t ∧ performAll (List.replicate 1 .engine) t = .next u) :=
  ⟨_, _, rfl, rfl⟩

/-- An asynchronous write in progress meets the invariant, wherever its cursor is and whatever is due. -/
theorem pumping_inv (cur : Word) (ic : InterruptControl) (ms : List Move) :
    { pumping cur with ic := ic, schedule := ms }.Inv := by
  refine ⟨⟨?_, ?_, ?_, ?_, ?_, ?_, ?_, ?_, ?_⟩, ⟨?_, ?_, ?_, ?_, ?_, ?_, ?_, ?_⟩, ?_, ?_, fun _ => rfl, rfl⟩
  all_goals simp [pumping, writing, enabled, State.reset, BusMaster.AtRest]

theorem failed_inv : failed.Inv := by
  refine ⟨⟨?_, ?_, ?_, ?_, ?_, ?_, ?_, ?_, ?_⟩, ⟨?_, ?_, ?_, ?_, ?_, ?_, ?_, ?_⟩, ?_, ?_, fun _ => rfl, rfl⟩
  all_goals simp [failed, enabled, State.reset, BusMaster.AtRest, BusMaster.addressAcked]

theorem witness_CommandsRunExactlyWhereAdmitted :
    admits .read (reading 1#8 0#8) = true ∧ admits .read writing = false ∧ failed.Inv ∧ failed.cmd = none ∧
    failed.bm.en = true ∧ failed.bm.phase = .address := ⟨by decide, by decide, failed_inv, rfl, rfl, rfl⟩

/-- A START that has been acknowledged, at its last numbered step. -/
def acknowledged : State := { writing with cmd := some (.start 0x3C#7 0#8 .form) }

theorem acknowledged_inv : acknowledged.Inv := by
  refine ⟨⟨?_, ?_, ?_, ?_, ?_, ?_, ?_, ?_, ?_⟩, ⟨?_, ?_, ?_, ?_, ?_, ?_, ?_, ?_⟩, ?_, ?_, ?_, ?_⟩
  all_goals first
    | decide
    | simp [acknowledged, writing, enabled, State.reset, Command.Holds, BusMaster.addressDone, BusMaster.addressAcked]

/-- A probe of SCAN that has been acknowledged, at the step that tests it. -/
def found : State := { writing with cmd := some (.scan 0x3C#7 .test) }

theorem found_inv : found.Inv := by
  refine ⟨⟨?_, ?_, ?_, ?_, ?_, ?_, ?_, ?_, ?_⟩, ⟨?_, ?_, ?_, ?_, ?_, ?_, ?_, ?_⟩, ?_, ?_, ?_, ?_⟩
  all_goals first
    | decide
    | simp [found, writing, enabled, State.reset, Command.Holds, BusMaster.addressAcked]

theorem witness_PumpFiringSendsOrFinishes :
    (due [.pumpIrq] (pumping 0x2001#32)).schedule = .pumpIrq :: [] ∧ (due [.pumpIrq] (pumping 0x2001#32)).Inv ∧
    (due [.pumpIrq] (pumping 0x2002#32)).Inv ∧
    ((pumping 0x2001#32).bm.wif = true ∧ (pumping 0x2001#32).bm.wie = true ∧ (pumping 0x2001#32).ic.gie = true ∧
      (pumping 0x2001#32).bm.cur ≠ (pumping 0x2001#32).bm.fin) ∧
    (pumping 0x2002#32).bm.cur = (pumping 0x2002#32).bm.fin :=
  ⟨rfl, pumping_inv _ _ _, pumping_inv _ _ _, by decide, rfl⟩

/-- The third clause: interrupts are disabled. -/
theorem witness_PumpFiringSendsOrFinishes_disabled :
    { pumping 0x2001#32 with ic := { gie := false } }.Inv ∧
    { pumping 0x2001#32 with ic := { gie := false } }.ic.gie = false := ⟨pumping_inv 0x2001#32 _ _, rfl⟩

theorem witness_PumpSendsTheWholeRange :
    admits .writeAsync { sending 0x2000#32 2#32 with ic := { gie := true } } = true ∧
    (sending 0x2000#32 2#32).bm.wif = true ∧ [Ack.ack, .nak].length = (sending 0x2000#32 2#32).ifc.arg1.toNat ∧
    ([] : List Ack).length = (sending 0x2000#32 0#32).ifc.arg1.toNat := by decide

theorem witness_EveryStepKeepsTheInvariant :
    (due [.pumpIrq] (pumping 0x2001#32)).Inv ∧ ∃ t, step (due [.pumpIrq] (pumping 0x2001#32)) = .next t :=
  ⟨pumping_inv _ _ _, next_of_sees (by decide)⟩

theorem witness_NoStepFaults :
    (pumping 0x2000#32).Inv ∧ ¬(failed.bm.phase = .dataWrite ∧ failed.bm.wif = true) ∧
    ¬((receiving 1#8).bm.phase = .dataRead ∧ (receiving 1#8).bm.rif = true) :=
  ⟨pumping_inv _ _ _, by decide, by decide⟩

theorem witness_TraceKeepsTheProtocol :
    (due [.pumpIrq] (pumping 0x2001#32)).Inv ∧
    ∃ t, Host.Core.run Sys2Proof.core 1 (due [.pumpIrq] (pumping 0x2001#32)) = .next t :=
  ⟨pumping_inv _ _ _, _, rfl⟩

theorem witness_DataPhaseNeedsAnAcknowledgedAddress :
    (∃ t, step (due [.env (.addr .ack)] addressing) = .next t ∧ t.bm.phase = .dataWrite ∧
      t.bm.phase ≠ addressing.bm.phase) ∧
    (acknowledged.Inv ∧ acknowledged.cmd = some (.start 0x3C#7 0#8 .form) ∧ ∃ t, engineStep acknowledged = .next t) ∧
    (found.Inv ∧ found.cmd = some (.scan 0x3C#7 .test) ∧ ∃ t, engineStep found = .next t) ∧
    (∃ t, exec .writeBytes (sending 0x2000#32 3#32) = .next t) ∧ ∃ t, exec .readLast (reading 1#8 0#8) = .next t :=
  ⟨⟨_, rfl, rfl, by decide⟩, ⟨acknowledged_inv, rfl, _, rfl⟩, ⟨found_inv, rfl, next_of_sees (by decide)⟩,
    next_of_sees (by decide), next_of_sees (by decide)⟩

theorem witness_StallChangesNothing :
    waiting addressing = true ∧ ([.engine, .tick, .timerIrq] : List Move).all answersNothing = true ∧
    ∃ t, performAll [.engine, .tick, .timerIrq] addressing = .next t :=
  ⟨by decide, by decide, next_of_sees (by decide)⟩

theorem witness_TimerCommutesWithTheBus :
    (Move.tick = .tick ∨ Move.tick = .timerIrq) ∧
    (∀ i, isTimebaseCommand i = true → addressing.cmd ≠ some (commandOf i addressing)) ∧
    (∃ e, Move.env (.data .ack) = .env e) ∧ Move.pumpIrq = .pumpIrq := by
  refine ⟨.inl rfl, fun i h => ?_, ⟨_, rfl⟩, rfl⟩
  cases i <;> simp_all [isTimebaseCommand, addressing, commandOf]

theorem witness_HandlersDoNotReenter :
    (timerIrqEnabled (timed 5#32 true) = true ∧ ∃ t, perform .timerIrq (timed 5#32 true) = .next t) ∧
    (pumpIrqEnabled (pumping 0x2001#32) = true ∧ ∃ t, perform .pumpIrq (pumping 0x2001#32) = .next t) :=
  ⟨⟨by decide, next_of_sees (by decide)⟩, ⟨by decide, next_of_sees (by decide)⟩⟩

theorem witness_OnlyTheHostWritesMemory :
    (∃ t, step (due [.pumpIrq] (pumping 0x2001#32)) = .next t) ∧ Memory.wf (pumping 0x2001#32).mem = true ∧
    ∃ t, perform (.host (.storeByte 0x2001#32 0#8)) (pumping 0x2001#32) = .next t :=
  ⟨next_of_sees (by decide), by decide, next_of_sees (by decide)⟩

theorem witness_IssuingTakesNoNumberedStep :
    (admits .tbNow (due [.tick] (timed 5#32 false)) = true ∧ (due [.tick] (timed 5#32 false)).schedule ≠ []) ∧
    (admits .stop writing = true ∧ writing.schedule = []) ∧
    (admits .stop (due [.host (.command 0x09000000#32), .tick] writing) = true ∧
      decode 0x09000000#32 = .ok .stop) := ⟨by decide, by decide, by decide, rfl⟩

end Sys2Proof.Tests
end

section
/-! PROOFS. The word `IF.STATUS` (10_state.md R47): where each field stands in it, and the statement of that rule. -/

namespace Sys2Proof.Machine

/-! ## The encodings of one bit -/

@[simp] theorem getElem_ackBit (a : Ack) : (ackBit a)[0] = decide (a = .nak) := by
  cases a <;> rfl

@[simp] theorem getElem_directionFlag (d : Direction) : (directionFlag d)[0] = decide (d = .read) := by
  cases d <;> rfl

/-! ## Where the fields stand -/

/-- Bits 4:0. -/
theorem statusWord_conditions (s : State) :
    (statusWord s).getLsbD 0 = s.bm.wif ∧ (statusWord s).getLsbD 1 = s.bm.rif ∧
    (statusWord s).getLsbD 2 = decide (s.bm.rxack = .nak) ∧ (statusWord s).getLsbD 3 = s.bm.arblost ∧
    (statusWord s).getLsbD 4 = s.bm.buserr := by
  simp only [statusWord, BitVec.getLsbD_append]
  simp

/-- Bits 11:7. -/
theorem statusWord_control (s : State) :
    (statusWord s).getLsbD 7 = decide (s.bm.dir = .read) ∧ (statusWord s).getLsbD 8 = s.bm.en ∧
    (statusWord s).getLsbD 9 = s.bm.wie ∧ (statusWord s).getLsbD 10 = s.bm.pact ∧
    (statusWord s).getLsbD 11 = s.bm.pdone := by
  simp only [statusWord, BitVec.getLsbD_append]
  simp

/-- Bits 29:24. -/
theorem statusWord_timebase_and_flags (s : State) :
    (statusWord s).getLsbD 24 = s.tb.run ∧ (statusWord s).getLsbD 25 = s.tb.pend ∧
    (statusWord s).getLsbD 26 = s.tb.ie ∧ (statusWord s).getLsbD 27 = s.ic.gie ∧
    (statusWord s).getLsbD 28 = s.ifc.cmdfault ∧ (statusWord s).getLsbD 29 = decide (s.bm.ackact = .nak) := by
  simp only [statusWord, BitVec.getLsbD_append]
  simp

/-- The fields of more than one bit, and the two reserved bits. -/
theorem statusWord_fields (s : State) :
    (statusWord s).extractLsb' 5 2 = phaseBits s.bm.phase ∧
    (statusWord s).extractLsb' 12 2 = txmodeBits s.bm.txmode ∧
    (statusWord s).extractLsb' 14 2 = inflightBits s.bm.inflight ∧
    (statusWord s).extractLsb' 16 8 = s.bm.rdcnt ∧ (statusWord s).extractLsb' 30 2 = 0#2 := by
  simp (disch := decide) only [statusWord, BitVec.extractLsb'_append_eq_of_le,
    BitVec.extractLsb'_append_eq_of_add_le]
  simp

/-- A read of `IF.STATUS` as the step of the machine, whatever else is in progress. -/
theorem step_readStatus {s : State} {ms : List Move} (h : s.schedule = .host .readStatus :: ms) :
    step s = .next { s with schedule := ms, readout := statusWord s } := by
  rw [step, takeMove, h]
  rfl

/-- Settles O9: each row of the layout from the lemma of its part of the word, and the read from `step_readStatus`. -/
theorem statusShowsEveryField : Obligations.StatusShowsEveryField := by
  unfold Obligations.StatusShowsEveryField
  refine ⟨fun s => ?_, fun s ms h => step_readStatus h⟩
  obtain ⟨wif, rif, rxack, arblost, buserr⟩ := statusWord_conditions s
  obtain ⟨dir, en, wie, pact, pdone⟩ := statusWord_control s
  obtain ⟨run, pend, ie, gie, cmdfault, ackact⟩ := statusWord_timebase_and_flags s
  obtain ⟨phase, txmode, inflight, rdcnt, reserved⟩ := statusWord_fields s
  exact ⟨wif, rif, rxack, arblost, buserr, phase, dir, en, wie, pact, pdone, txmode, inflight, rdcnt, run, pend, ie,
    gie, cmdfault, ackact, reserved⟩

end Sys2Proof.Machine
end

section
/-! PROOFS. `BM.EN` (10_state.md R20), and before it what `exec` and the engine's step do in a form that serves any
command: every refusal, a command of one atomic step, and the frame of `BM.EN`. -/

namespace Sys2Proof.Machine

/-! ## Refusal -/

/-- Every command is admission and then its issue, and admission admits exactly what Safety's `admits` says. -/
theorem exec_eq_admitted (i : Instr) (s : State) :
    ∃ r, exec i s = admitted r (issue (commandOf i s) s) ∧ (admits i s = true ↔ r = none) := by
  cases i
  case bmInit => exact ⟨_, rfl, admits_bmInit_iff s⟩
  case scan => exact ⟨_, rfl, admits_scan_iff s⟩
  case start a n => exact ⟨_, rfl, admits_start_iff a n s⟩
  case restart a n => exact ⟨_, rfl, admits_restart_iff a n s⟩
  case write b => exact ⟨_, rfl, admits_write_iff b s⟩
  case writeBytes => exact ⟨_, rfl, admits_writeBytes_iff s⟩
  case read => exact ⟨_, rfl, admits_read_iff s⟩
  case readLast => exact ⟨_, rfl, admits_readLast_iff s⟩
  case stop => exact ⟨_, rfl, admits_stop_iff s⟩
  case writeAsync => exact ⟨_, rfl, admits_writeAsync_iff s⟩
  case tbInit => exact ⟨_, rfl, admits_tbInit_iff s⟩
  case tbNow => exact ⟨_, rfl, admits_tbNow_iff s⟩
  case tbRestart => exact ⟨_, rfl, admits_tbRestart_iff s⟩

theorem exec_refused_of_not_admits {i : Instr} {s : State} (h : admits i s = false) :
    ∃ r, exec i s = .refused r := by
  obtain ⟨_ | r, hexec, hiff⟩ := exec_eq_admitted i s
  · rw [hiff.2 rfl] at h
    cases h
  · exact ⟨r, hexec⟩

theorem tableAdmits_of_not_enabled {i : Instr} {b : BusMaster} (hen : b.en = false) (hi : i ≠ .bmInit)
    (ht : isTimebaseCommand i = false) : tableAdmits i b = false := by
  cases i
  case bmInit => exact absurd rfl hi
  case tbInit => cases ht
  case tbNow => cases ht
  case tbRestart => cases ht
  all_goals simp [tableAdmits, hen]

/-! ## A command whose first numbered step completes it -/

/-- Where nothing else is due the command has completed when its issue answers, and otherwise the engine's next move
completes it (log 3, 4). -/
theorem exec_completes_in_one_step {i : Instr} {s done : State} (ha : admits i s = true)
    (hstep : engineStep (goTo (commandOf i s) s) = .next done) (hdone : done.cmd = none) :
    (s.schedule = [] → exec i s = .next done) ∧
      ∃ t, exec i s = .next t ∧ performAll [.engine] t = .next done := by
  have hrun : s.schedule = [] → exec i s = .next done := fun h => by
    rw [exec_of_admits ha, issue_of_none_due h, longestStretch, engineRun_succ hstep, engineRun_of_no_command hdone]
  refine ⟨hrun, ?_⟩
  have hengine : ∀ t, engineStep t = .next done → performAll [.engine] t = .next done := fun t h =>
    (performAll_engines 1 t).trans (engineRun_succ h 0)
  cases hs : s.schedule with
  | nil => exact ⟨done, hrun hs, hengine done (engineStep_of_no_command hdone)⟩
  | cons m ms => exact ⟨_, (exec_of_admits ha).trans (issue_of_due hs _), hengine _ hstep⟩

/-! ## The frame of `BM.EN` -/

/-- Only the step of BM_INIT writes `BM.EN`. -/
theorem engineStep_en {s t : State} (hc : ∀ hz ns, s.cmd ≠ some (.bmInit hz ns)) (h : engineStep s = .next t) :
    t.bm.en = s.bm.en := by
  by_cases hone : ∀ c, s.cmd = some c → c.oneStep = false
  · obtain ⟨-, hen, -⟩ := engineStep_frame hone h
    exact hen
  · push Not at hone
    obtain ⟨c, hcmd, hone⟩ := hone
    rw [engineStep, hcmd] at h
    cases c
    case bmInit hz ns => exact absurd hcmd (hc hz ns)
    case stop | writeAsync | tbInit | tbNow | tbRestart => cases h; rfl
    all_goals exact absurd rfl hone

theorem CommandFrame.keeps_enabled {s t : State} (h : CommandFrame s t) (hen : s.bm.en = true) : t.bm.en = true := by
  obtain ⟨-, hkeeps, -⟩ := h
  exact hkeeps hen

theorem cmd_ne_bmInit {name : String} {cmd : Option Command} (h : CommandIs name cmd) (hn : name ≠ "BM_INIT")
    (hz ns : Word) : cmd ≠ some (.bmInit hz ns) :=
  fun hc => hn (h _ hc).symm

theorem mnemonicOf_ne_bmInit {i : Instr} (h : i ≠ .bmInit) : mnemonicOf i ≠ "BM_INIT" := by
  cases i
  case bmInit => exact absurd rfl h
  all_goals simp [mnemonicOf]

theorem engineRun_en {name : String} (hname : name ≠ "BM_INIT") {n : Nat} {s t : State}
    (hs : CommandIs name s.cmd) (h : engineRun n s = .next t) : t.bm.en = s.bm.en :=
  (engineRun_induct (P := fun u => CommandIs name u.cmd ∧ u.bm.en = s.bm.en)
    (fun k hk => ⟨engineStep_is k.1 hk, (engineStep_en (cmd_ne_bmInit k.1 hname) hk).trans k.2⟩) ⟨hs, rfl⟩ h).2

theorem exec_en {i : Instr} (hi : i ≠ .bmInit) {s t : State} (h : exec i s = .next t) : t.bm.en = s.bm.en := by
  obtain ⟨n, hrun⟩ := exec_eq_run h
  have hissued : CommandIs (mnemonicOf i) (goTo (commandOf i s) s).cmd := .some (commandOf_mnemonic i s)
  have hen := engineRun_en (mnemonicOf_ne_bmInit hi) hissued hrun
  rwa [goTo_bm] at hen

/-- Settles O14: BM_INIT completes in one step that writes `BM.EN`, every other command and step has the frame
`exec_en` or `engineStep_en`, and the table admits no other bus command before it. -/
theorem busMasterIsEnabledByInitOnly : Obligations.BusMasterIsEnabledByInitOnly := by
  unfold Obligations.BusMasterIsEnabledByInitOnly
  refine ⟨rfl, fun s ha => ?_, fun i s t h => ?_, fun s t h => ?_, fun i s hen hi ht => ?_⟩
  · obtain ⟨-, t, hexec, hdone⟩ := exec_completes_in_one_step ha rfl rfl
    exact ⟨t, _, hexec, hdone, rfl⟩
  · exact ⟨(exec_commandFrame h).keeps_enabled, fun hi => exec_en hi h⟩
  · exact ⟨(engineStep_commandFrame h).keeps_enabled, fun hc => engineStep_en hc h⟩
  · exact exec_refused_of_not_admits (by simp [admits, tableAdmits_of_not_enabled hen hi ht])

end Sys2Proof.Machine
end

section
/-! PROOFS. The bus between the block and its environment (20_memory.md R65 to R71): a due move as the step of the
machine, each environment step where it is enabled, and the stop. -/

namespace Sys2Proof.Machine

/-! ## A move that is due -/

theorem step_of_due {s : State} {m : Move} {ms : List Move} (h : s.schedule = m :: ms) :
    step s = perform m { s with schedule := ms } := by
  rw [step, takeMove, h]

/-! ## The stop -/

/-- `Owns(BM)` (10_state.md R38) condition by condition. -/
theorem BusMaster.owns_iff (b : BusMaster) :
    b.owns = true ↔ b.phase ≠ .idle ∧ b.arblost = false ∧ b.buserr = false ∧ b.inflight ≠ .addr := by
  simp [BusMaster.owns, and_assoc]

/-- Settles O31: the one numbered step of STOP completes it, `BusMaster.owns_iff` says when its stop condition is on
the bus, and no command is in progress before it, as after it. -/
theorem stopReturnsToIdle : Obligations.StopReturnsToIdle := by
  unfold Obligations.StopReturnsToIdle
  rintro s done ha rfl
  have hcmd : s.cmd = none := admits_no_command ha
  refine exec_completes_in_one_step ha ?_ hcmd
  simp only [← BusMaster.owns_iff, hcmd]
  rfl

/-! ## The answers to an address byte -/

theorem step_envAddr {s : State} {x : AddrAnswer} {ms : List Move} (h : s.schedule = .env (.addr x) :: ms)
    (haddr : s.bm.inflight = .addr) : step s = .next (answerAddress x { s with schedule := ms }) :=
  (step_of_due h).trans (if_pos haddr)

theorem answerAddress_ack_of_write {s : State} (h : s.bm.dir = .write) :
    answerAddress .ack s = { s with
      bm := { s.bm with rxack := .ack, phase := .dataWrite, inflight := .none, wif := true }
      trace := s.trace ++ [.slave .ack] } := by
  rw [answerAddress, addressAccepted, h]
  rfl

theorem answerAddress_ack_of_read {s : State} (h : s.bm.dir = .read) :
    answerAddress .ack s = { s with
      bm := { s.bm with rxack := .ack, phase := .dataRead, inflight := .recv }
      trace := s.trace ++ [.slave .ack] } := by
  rw [answerAddress, addressAccepted, h]
  rfl

/-- A failure sets the failure bits it names and leaves the other one as it is. -/
theorem addressFailed_eq (a : Ack) (arb err : Bool) (es : List BusEvent) (s : State) :
    addressFailed a arb err es s = { s with
      bm := { s.bm with
        rxack := a, arblost := s.bm.arblost || arb, buserr := s.bm.buserr || err, inflight := .none, wif := true }
      trace := s.trace ++ es } := rfl

/-- A lost bus is a failure whose acknowledge bit is the next free value. -/
theorem addressLost_eq (arb err : Bool) (es : List BusEvent) (s : State) :
    addressLost arb err es s = addressFailed (if Config.freeBit s.draws then .nak else .ack) arb err es
      { s with draws := s.draws + 1 } := rfl

/-- Settles O33: an acknowledgement by the direction of the address byte, and the other four answers as a failure. -/
theorem environmentAnswersAnAddressByte : Obligations.EnvironmentAnswersAnAddressByte := by
  unfold Obligations.EnvironmentAnswersAnAddressByte
  rintro s ms x drawn hdue haddr rfl
  rw [step_envAddr hdue haddr]
  refine ⟨?ackWrite, ?ackRead, ?nak, ?arbLost, ?busErr, ?both⟩
  case ackWrite =>
    rintro rfl hdir
    simp [answerAddress_ack_of_write, hdir]
  case ackRead =>
    rintro rfl hdir
    simp [answerAddress_ack_of_read, hdir]
  case nak =>
    rintro rfl
    simp [answerAddress, addressFailed_eq]
  case arbLost | busErr | both =>
    rintro rfl
    simp [answerAddress, addressLost_eq, addressFailed_eq]

/-! ## Data bytes -/

theorem step_envRecv {s : State} {b : Byte} {ms : List Move} (h : s.schedule = .env (.recv b) :: ms)
    (hrecv : s.bm.inflight = .recv) :
    step s = .next { s with
      schedule := ms, trace := s.trace ++ [.rx b], bm := { s.bm with data := b, inflight := .none, rif := true } } := by
  rw [step_of_due h, perform, envStep, envRecv_eq, if_pos hrecv]

theorem step_envData {s : State} {a : Ack} {ms : List Move} (h : s.schedule = .env (.data a) :: ms)
    (hdata : s.bm.inflight = .data) :
    step s = .next { s with
      schedule := ms, trace := s.trace ++ [.slave a]
      bm := { s.bm with rxack := a, inflight := .none, wif := true } } := by
  rw [step_of_due h, perform, envStep, envData_eq, if_pos hdata]

/-- What `BusSendData` does where its requirement holds (20_memory.md R69). -/
theorem busSendData_of_ready {s : State} (hphase : s.bm.phase = .dataWrite) (hwif : s.bm.wif = true) (b : Byte) :
    busSendData b s = .next { s with
      trace := s.trace ++ [.tx b], bm := { s.bm with data := b, wif := false, inflight := .data } } :=
  if_pos ⟨hphase, hwif⟩

/-- Settles O34: each transfer is the step of its own lemma. -/
theorem environmentCompletesDataTransfers : Obligations.EnvironmentCompletesDataTransfers := by
  unfold Obligations.EnvironmentCompletesDataTransfers
  exact ⟨fun _ _ _ hdue hrecv => step_envRecv hdue hrecv, fun _ b hphase hwif => busSendData_of_ready hphase hwif b,
    fun _ _ _ hdue hdata => step_envData hdue hdata⟩

end Sys2Proof.Machine
end

section
/-! PROOFS. Decoding (30_encoding.md R91, R92, R95, R97, R98): the opcode and the format of each command, what the
decoder answers to a word by its opcode, and the same words in the opcode table and in `wellFormedWord`. -/

namespace Sys2Proof

open Sys2Proof.Laws

/-! ## The opcode and the format of a command -/

/-- The opcode of a command (30_encoding.md R95). -/
def Instr.opcode : Instr → Byte
  | .bmInit => 0x01#8
  | .scan => 0x02#8
  | .start _ _ => 0x03#8
  | .restart _ _ => 0x04#8
  | .write _ => 0x05#8
  | .writeBytes => 0x06#8
  | .read => 0x07#8
  | .readLast => 0x08#8
  | .stop => 0x09#8
  | .writeAsync => 0x0A#8
  | .tbInit => 0x10#8
  | .tbNow => 0x11#8
  | .tbRestart => 0x12#8

/-- The format of a command (30_encoding.md R95). -/
def Instr.format : Instr → Format
  | .bmInit => .ci
  | .start _ _ | .restart _ _ => .ca
  | .write _ => .cb
  | .writeBytes | .writeAsync => .cm
  | .scan | .read | .readLast | .stop | .tbInit | .tbNow | .tbRestart => .c0

/-- The command of the same opcode whose operands are the fields of `w` (30_encoding.md R92). -/
def Instr.withFields (w : Word) : Instr → Instr
  | .start _ _ => .start (addrField w) (lowField w)
  | .restart _ _ => .restart (addrField w) (lowField w)
  | .write _ => .write (lowField w)
  | i => i

/-- A word of the command's opcode whose reserved bits are 0 (30_encoding.md R91, R95). -/
def Instr.Matches (i : Instr) (w : Word) : Prop := opcodeField w = i.opcode ∧ w &&& reservedBits i.format = 0#32

@[simp] theorem Instr.opcode_withFields (w : Word) (i : Instr) : (i.withFields w).opcode = i.opcode := by
  cases i <;> rfl

@[simp] theorem Instr.format_withFields (w : Word) (i : Instr) : (i.withFields w).format = i.format := by
  cases i <;> rfl

@[simp] theorem Instr.withFields_withFields (w : Word) (i : Instr) :
    (i.withFields w).withFields w = i.withFields w := by
  cases i <;> rfl

theorem formatOf_opcode (i : Instr) : formatOf i.opcode = some i.format := by
  cases i <;> rfl

/-- An opcode of no command is none of the thirteen. -/
theorem ne_of_unassigned {op : Byte} (h : ∀ i : Instr, op ≠ i.opcode) :
    op ≠ 0x01#8 ∧ op ≠ 0x02#8 ∧ op ≠ 0x03#8 ∧ op ≠ 0x04#8 ∧ op ≠ 0x05#8 ∧ op ≠ 0x06#8 ∧ op ≠ 0x07#8 ∧
    op ≠ 0x08#8 ∧ op ≠ 0x09#8 ∧ op ≠ 0x0A#8 ∧ op ≠ 0x10#8 ∧ op ≠ 0x11#8 ∧ op ≠ 0x12#8 :=
  ⟨h .bmInit, h .scan, h (.start 0 0), h (.restart 0 0), h (.write 0), h .writeBytes, h .read, h .readLast, h .stop,
    h .writeAsync, h .tbInit, h .tbNow, h .tbRestart⟩

theorem formatOf_of_unassigned {op : Byte} (h : ∀ i : Instr, op ≠ i.opcode) : formatOf op = none := by
  simp [formatOf, ne_of_unassigned h]

/-! ## The decoder -/

theorem decode_of_unassigned {w : Word} (h : ∀ i : Instr, opcodeField w ≠ i.opcode) :
    decode w = .error .unknownOpcode := by
  simp [decode, ne_of_unassigned h]

/-- What the decoder answers to a word of an assigned opcode. -/
theorem decode_of_opcode {w : Word} {i : Instr} (h : opcodeField w = i.opcode) :
    decode w = if w &&& reservedBits i.format = 0#32 then .ok (i.withFields w) else .error .reservedBits := by
  cases i
  case start | restart =>
    simp [decode, h, Instr.opcode, Instr.format, Instr.withFields, reservedBits, decodeAddressed,
      reserved_addressed_iff]
  case write =>
    simp [decode, h, Instr.opcode, Instr.format, Instr.withFields, reservedBits, decodeByte, reserved_byte_iff]
  all_goals
    simp [decode, h, Instr.opcode, Instr.format, Instr.withFields, reservedBits, decodeBare, reserved_bare_iff]

theorem decode_eq_ok_iff {w : Word} {i : Instr} : decode w = .ok i ↔ i.Matches w ∧ i.withFields w = i := by
  constructor
  · intro h
    by_cases ha : ∃ j : Instr, opcodeField w = j.opcode
    · obtain ⟨j, hj⟩ := ha
      rw [decode_of_opcode hj] at h
      split at h
      next hr =>
        cases h
        simpa [Instr.Matches] using And.intro hj hr
      next => cases h
    · rw [decode_of_unassigned (not_exists.1 ha)] at h
      cases h
  · rintro ⟨⟨hop, hr⟩, hfields⟩
    rw [decode_of_opcode hop, if_pos hr, hfields]

theorem decodes_iff_matches (w : Word) : (∃ i, decode w = .ok i) ↔ ∃ i : Instr, i.Matches w := by
  constructor
  · rintro ⟨i, h⟩
    exact ⟨i, (decode_eq_ok_iff.1 h).1⟩
  · rintro ⟨i, hop, hr⟩
    exact ⟨i.withFields w, by rw [decode_of_opcode hop, if_pos hr]⟩

theorem decode_error_iff (w : Word) : (∃ e, decode w = .error e) ↔ ¬∃ i : Instr, i.Matches w := by
  rw [← decodes_iff_matches]
  cases decode w <;> simp

/-! ## The legal words -/

/-- `wellFormedWord` names the words that some command matches. -/
theorem wellFormedWord_iff_matches (w : Word) : wellFormedWord w = true ↔ ∃ i : Instr, i.Matches w := by
  constructor
  · intro h
    by_cases ha : ∃ i : Instr, opcodeField w = i.opcode
    · obtain ⟨i, hi⟩ := ha
      have hf := formatOf_opcode i
      rw [← hi, opcodeField] at hf
      exact ⟨i, hi, by simpa [wellFormedWord, hf] using h⟩
    · have hf := formatOf_of_unassigned (not_exists.1 ha)
      rw [opcodeField] at hf
      simp [wellFormedWord, hf] at h
  · rintro ⟨i, hop, hr⟩
    exact wellFormedWord_of_fields hop (formatOf_opcode i) hr

theorem decode_error_iff_illFormed (w : Word) : (∃ e, decode w = .error e) ↔ wellFormedWord w = false := by
  rw [decode_error_iff, ← wellFormedWord_iff_matches, Bool.not_eq_true]

/-! ## The opcode table -/

/-- The row of a command (30_encoding.md R98): its mask is the opcode field and the reserved bits of its format. -/
def Instr.row (i : Instr) : OpcodeRow := ⟨mnemonicOf i, 0xFF000000#32 ||| reservedBits i.format, encodeBare i.opcode⟩

theorem opcodeTable_eq : opcodeTable =
    [Instr.bmInit, .scan, .start 0 0, .restart 0 0, .write 0, .writeBytes, .read, .readLast, .stop, .writeAsync,
      .tbInit, .tbNow, .tbRestart].map Instr.row := by decide

theorem row_mem_opcodeTable (i : Instr) : i.row ∈ opcodeTable := by
  rw [opcodeTable_eq]
  cases i <;> simp [Instr.row, mnemonicOf, Instr.format, Instr.opcode]

theorem exists_row_of_mem {r : OpcodeRow} (h : r ∈ opcodeTable) : ∃ i : Instr, i.row = r := by
  rw [opcodeTable_eq, List.mem_map] at h
  obtain ⟨i, -, hi⟩ := h
  exact ⟨i, hi⟩

theorem opcodeField_append_low (w : Word) : opcodeField w ++ w.extractLsb' 0 24 = w :=
  (BitVec.extractLsb'_append_extractLsb'_eq_extractLsb' rfl).trans BitVec.extractLsb'_eq_self

/-- A word is its opcode field and the 24 bits below it. -/
theorem word_eq_iff (v w : Word) :
    v = w ↔ opcodeField v = opcodeField w ∧ v.extractLsb' 0 24 = w.extractLsb' 0 24 := by
  refine ⟨fun h => h ▸ ⟨rfl, rfl⟩, fun ⟨hop, hlow⟩ => ?_⟩
  rw [← opcodeField_append_low v, hop, hlow, opcodeField_append_low]

theorem opcodeField_and (v w : Word) : opcodeField (v &&& w) = opcodeField v &&& opcodeField w :=
  BitVec.extractLsb'_and

/-- Reserved bits lie below the opcode, so only the 24 low bits tell whether they are clear. -/
theorem reserved_eq_zero_iff (w : Word) (f : Format) :
    w &&& reservedBits f = 0#32 ↔ w.extractLsb' 0 24 &&& (reservedBits f).extractLsb' 0 24 = 0#24 := by
  have hop : opcodeField (reservedBits f) = 0#8 := by cases f <;> decide
  have hzero : opcodeField 0#32 = 0#8 := by decide
  rw [word_eq_iff, opcodeField_and, hop, hzero, BitVec.extractLsb'_and]
  simp

theorem opcodeField_row_mask (i : Instr) : opcodeField i.row.mask = BitVec.allOnes 8 := by
  simp only [Instr.row]
  cases i.format <;> decide

theorem low_row_mask (i : Instr) : i.row.mask.extractLsb' 0 24 = (reservedBits i.format).extractLsb' 0 24 := by
  simp only [Instr.row]
  cases i.format <;> decide

/-- A word belongs to the row of a command exactly if the command matches it. -/
theorem row_covers_iff (i : Instr) (w : Word) : w &&& i.row.mask = i.row.pattern ↔ i.Matches w := by
  have hpattern : i.row.pattern = encodeBare i.opcode := rfl
  rw [Instr.Matches, reserved_eq_zero_iff, word_eq_iff, opcodeField_and, BitVec.extractLsb'_and,
    opcodeField_row_mask, low_row_mask, BitVec.and_allOnes, hpattern, opcodeField_encodeBare, reserved_encodeBare]

theorem opcodeField_of_row_covers {r : OpcodeRow} (hr : r ∈ opcodeTable) {w : Word} (h : w &&& r.mask = r.pattern) :
    opcodeField w = opcodeField r.pattern := by
  obtain ⟨i, rfl⟩ := exists_row_of_mem hr
  obtain ⟨hop, -⟩ := (row_covers_iff i w).1 h
  exact hop.trans (opcodeField_encodeBare i.opcode).symm

theorem opcodeTable_disjoint :
    opcodeTable.Pairwise fun r r' => ∀ w : Word, ¬(w &&& r.mask = r.pattern ∧ w &&& r'.mask = r'.pattern) := by
  have hne : opcodeTable.Pairwise fun r r' => opcodeField r.pattern ≠ opcodeField r'.pattern := by decide
  refine hne.imp_of_mem fun hr hr' hne w hw => hne ?_
  rw [← opcodeField_of_row_covers hr hw.1, opcodeField_of_row_covers hr' hw.2]

/-- Settles O3: a word decodes to a command exactly where it belongs to the command's row, the table is the list of
those rows, and two rows differ in their opcodes. -/
theorem decodeFollowsTheOpcodeTable : Obligations.DecodeFollowsTheOpcodeTable := by
  unfold Obligations.DecodeFollowsTheOpcodeTable
  refine ⟨fun w i h => ?row, fun w e h r hr hw => ?noRow, rfl, opcodeTable_disjoint, fun w a n h => ?addressed,
    fun w b h => ?byte⟩
  case row =>
    exact ⟨i.row, row_mem_opcodeTable i, rfl, (row_covers_iff i w).2 (decode_eq_ok_iff.1 h).1⟩
  case noRow =>
    obtain ⟨i, rfl⟩ := exists_row_of_mem hr
    exact (decode_error_iff w).1 ⟨e, h⟩ ⟨i, (row_covers_iff i w).1 hw⟩
  case addressed =>
    rcases h with h | h
    all_goals
      obtain ⟨-, hfields⟩ := decode_eq_ok_iff.1 h
      cases hfields
      exact ⟨rfl, rfl⟩
  case byte =>
    obtain ⟨-, hfields⟩ := decode_eq_ok_iff.1 h
    cases hfields
    rfl

end Sys2Proof

namespace Sys2Proof.Machine

/-! ## Writing an illegal word -/

theorem hostCommand_of_illFormed {w : Word} (h : wellFormedWord w = false) (s : State) :
    hostCommand w s = .next (raiseIllegalCommand s) := by
  obtain ⟨e, he⟩ := (decode_error_iff_illFormed w).2 h
  rw [hostCommand, he]

theorem exec_cmdfault {i : Instr} {s t : State} (h : exec i s = .next t) : t.ifc.cmdfault = s.ifc.cmdfault := by
  obtain ⟨hframe, -⟩ := exec_commandFrame h
  rw [hframe]

/-- Settles O4: the illegal words are those no command matches, the decoder's error comes before any admission, and
`IF.CMDFAULT` is outside the frame of every command. -/
theorem illegalWordsOnlySetCmdfault : Obligations.IllegalWordsOnlySetCmdfault := by
  unfold Obligations.IllegalWordsOnlySetCmdfault
  refine ⟨decode_error_iff_illFormed, fun s w ms hdue hw => ?_, fun _ _ _ h => exec_cmdfault h⟩
  rw [step_of_due hdue, perform, hostStep, hostCommand_of_illFormed hw]
  rfl

end Sys2Proof.Machine
end

section
/-! PROOFS. The timebase (40_timebase.md R120 to R125): what leaves it and `IC.GIE` alone, and what a run of moves does
to its count. -/

namespace Sys2Proof.Machine

/-! ## The two steps -/

theorem goTo_of_cmd {c : Command} {s : State} (h : s.cmd = some c) : goTo c s = s := by
  rw [goTo, ← h]

/-- A command whose first numbered step completes it answers that step's state, whether it takes the step as the
engine's or goes on to it from its issue. -/
theorem eq_of_completing_step {i : Instr} {s t done : State}
    (hdone : engineStep (goTo (commandOf i s) s) = .next done) (hcmd : done.cmd = none)
    (h : (s.cmd = some (commandOf i s) ∧ engineStep s = .next t) ∨ (s.schedule = [] ∧ exec i s = .next t)) :
    t = done := by
  rcases h with ⟨hissued, hstep⟩ | ⟨hidle, hexec⟩
  · rw [goTo_of_cmd hissued, hstep] at hdone
    cases hdone
    rfl
  · obtain ⟨ha, -⟩ := exec_eq_next hexec
    obtain ⟨hrun, -⟩ := exec_completes_in_one_step ha hdone hcmd
    cases hexec.symm.trans (hrun hidle)
    rfl

theorem restartStep_eq {s t : State} (h : restartStep s t) : t = complete noResult (startTimebase s) :=
  eq_of_completing_step (i := .tbRestart) rfl rfl h

theorem nowStep_eq {s t : State} (h : nowStep s t) : t = complete s.tb.count s :=
  eq_of_completing_step (i := .tbNow) rfl rfl h

/-! ## What leaves the timebase alone -/

/-- The command in progress, if any, is not one that starts the timebase anew. It is said by name, since every numbered
step keeps the name (`engineStep_is`). -/
def State.LeavesTimebase (s : State) : Prop :=
  ∃ name, CommandIs name s.cmd ∧ name ≠ "TB_INIT" ∧ name ≠ "TB_RESTART"

/-- The timebase and `IC.GIE` are as they were, and the command in progress will not start the timebase anew. -/
def TimebaseFrame (s t : State) : Prop := t.LeavesTimebase ∧ t.tb = s.tb ∧ t.ic = s.ic

theorem leavesTimebase_of_no_command {s : State} (h : s.cmd = none) : s.LeavesTimebase :=
  ⟨"TB_NOW", h ▸ .none _, by decide, by decide⟩

theorem leavesTimebase_goTo_commandOf {i : Instr} (hi : startsTimebase i = false) (s : State) :
    (goTo (commandOf i s) s).LeavesTimebase := by
  refine ⟨mnemonicOf i, .some (commandOf_mnemonic i s), ?_⟩
  cases i
  case tbInit | tbRestart => cases hi
  all_goals exact ⟨by simp [mnemonicOf], by simp [mnemonicOf]⟩

/-- A step that does not touch the command in progress. -/
theorem TimebaseFrame.of_same_cmd {s t : State} (hs : s.LeavesTimebase) (hcmd : t.cmd = s.cmd) (htb : t.tb = s.tb)
    (hic : t.ic = s.ic) : TimebaseFrame s t :=
  ⟨by rwa [State.LeavesTimebase, hcmd], htb, hic⟩

theorem TimebaseFrame.trans {s t u : State} (h : TimebaseFrame s t) (k : TimebaseFrame t u) : TimebaseFrame s u := by
  obtain ⟨-, htb, hic⟩ := h
  obtain ⟨hu, htb', hic'⟩ := k
  exact ⟨hu, htb'.trans htb, hic'.trans hic⟩

theorem engineStep_timebaseFrame {s t : State} (hs : s.LeavesTimebase) (h : engineStep s = .next t) :
    TimebaseFrame s t := by
  obtain ⟨name, his, hinit, hrestart⟩ := hs
  refine ⟨⟨name, engineStep_is his h, hinit, hrestart⟩, ?_⟩
  by_cases hone : ∀ c, s.cmd = some c → c.oneStep = false
  · obtain ⟨hframe, -⟩ := engineStep_frame hone h
    rw [hframe]
    exact ⟨rfl, rfl⟩
  · push Not at hone
    obtain ⟨c, hcmd, hone⟩ := hone
    rw [engineStep, hcmd] at h
    cases c
    case tbInit => exact absurd (his _ hcmd).symm hinit
    case tbRestart => exact absurd (his _ hcmd).symm hrestart
    case bmInit | stop | writeAsync | tbNow => cases h; exact ⟨rfl, rfl⟩
    all_goals exact absurd rfl hone

theorem engineRun_timebaseFrame {n : Nat} {s t : State} (hs : s.LeavesTimebase) (h : engineRun n s = .next t) :
    TimebaseFrame s t :=
  engineRun_induct (P := TimebaseFrame s) (fun k hk => k.trans (engineStep_timebaseFrame k.1 hk)) ⟨hs, rfl, rfl⟩ h

/-- From issue on: the command in progress before it does not matter. -/
theorem exec_timebaseFrame {i : Instr} (hi : startsTimebase i = false) {s t : State} (h : exec i s = .next t) :
    TimebaseFrame s t := by
  obtain ⟨n, hrun⟩ := exec_eq_run h
  have hframe := engineRun_timebaseFrame (leavesTimebase_goTo_commandOf hi s) hrun
  rwa [TimebaseFrame, goTo_tb, goTo_ic] at hframe

theorem hostCommand_timebaseFrame {w : Word} (hw : wordKeepsTimebase w = true) {s t : State}
    (hs : s.LeavesTimebase) (h : hostCommand w s = .next t) : TimebaseFrame s t := by
  unfold hostCommand at h
  split at h
  next =>
    cases h
    exact .of_same_cmd hs rfl rfl rfl
  next i hdec =>
    have hi : startsTimebase i = false := by simpa [wordKeepsTimebase, hdec, Except.toOption] using hw
    exact exec_timebaseFrame hi h

theorem hostAccess_eq_next {s t u : State} (h : hostAccess s t = .next u) : s.cmd = none ∧ u = t := by
  unfold hostAccess at h
  split at h
  next hcmd =>
    cases h
    exact ⟨hcmd, rfl⟩
  next => cases h

theorem hostStep_timebaseFrame {a : HostAction} (ha : hostKeepsTimebase a = true) {s t : State}
    (hs : s.LeavesTimebase) (h : hostStep a s = .next t) : TimebaseFrame s t := by
  cases a
  case command w => exact hostCommand_timebaseFrame ha hs h
  case readStatus =>
    cases h
    exact .of_same_cmd hs rfl rfl rfl
  all_goals
    obtain ⟨-, rfl⟩ := hostAccess_eq_next h
    exact .of_same_cmd hs rfl rfl rfl

/-- A step of the environment writes the bus master, the trace and the draws, and nothing else. -/
theorem envStep_frame {e : EnvEvent} {s t : State} (h : envStep e s = .next t) :
    t = { s with bm := t.bm, trace := t.trace, draws := t.draws } := by
  cases e
  case addr x =>
    rcases envAddr_eq_next h with ⟨-, rfl⟩ | ⟨-, rfl⟩
    · exact answerAddress_frame x s
    · rfl
  case data a =>
    cases h
    rw [envData_eq]
    split <;> rfl
  case recv b =>
    cases h
    rw [envRecv_eq]
    split <;> rfl

/-- A firing of the pump's handler writes the bus master and the trace, and nothing else. -/
theorem pumpIsr_frame {s t : State} (h : pumpIsr s = .next t) : t = { s with bm := t.bm, trace := t.trace } := by
  unfold pumpIsr at h
  split at h
  · split at h
    · obtain ⟨-, rfl⟩ := busSendData_eq_next h
      rfl
    · cases h
      rfl
  · cases h
    rfl

/-- The timer's own two moves aside, a move that does not start the timebase anew leaves it alone. -/
theorem perform_timebaseFrame {m : Move} (hm : keepsTimebase m = true) (htick : m ≠ .tick) (hirq : m ≠ .timerIrq)
    {s t : State} (hs : s.LeavesTimebase) (h : perform m s = .next t) : TimebaseFrame s t := by
  cases m
  case host a => exact hostStep_timebaseFrame hm hs h
  case engine => exact engineStep_timebaseFrame hs h
  case env e =>
    rw [envStep_frame h]
    exact .of_same_cmd hs rfl rfl rfl
  case pumpIrq =>
    rw [pumpIsr_frame h]
    exact .of_same_cmd hs rfl rfl rfl
  case tick => exact absurd rfl htick
  case timerIrq => exact absurd rfl hirq
  case powerOn => cases hm

/-! ## The count -/

/-- A tick sets `TB.PEND` at most (R123). -/
theorem tbTick_frame (s : State) : tbTick s = { s with tb := { s.tb with pend := (tbTick s).tb.pend } } := by
  unfold tbTick
  split <;> rfl

/-- 1 for a move that is a firing of the periodic timer interrupt, else 0. -/
def firing (m : Move) (s : State) : Nat := if m = .timerIrq ∧ timerIrqEnabled s = true then 1 else 0

theorem firing_of_ne {m : Move} (h : m ≠ .timerIrq) (s : State) : firing m s = 0 := by
  simp [firing, h]

theorem timerFirings_cons {m : Move} {s t : State} (h : perform m s = .next t) (ms : List Move) :
    timerFirings (m :: ms) s = firing m s + timerFirings ms t := by
  rw [timerFirings, h, firing]

/-- The handler counts its own firing (R124). -/
theorem tbIsr_frame (s : State) :
    tbIsr s = { s with tb := { s.tb with
      count := s.tb.count + BitVec.ofNat 32 (firing .timerIrq s), pend := (tbIsr s).tb.pend } } := by
  unfold tbIsr
  split <;> simp [firing, *]

theorem perform_count {m : Move} (hm : keepsTimebase m = true) {s t : State} (hs : s.LeavesTimebase)
    (h : perform m s = .next t) :
    t.LeavesTimebase ∧ t.tb.count = s.tb.count + BitVec.ofNat 32 (firing m s) := by
  by_cases hirq : m = .timerIrq
  · subst hirq
    cases h
    rw [tbIsr_frame]
    exact ⟨hs, rfl⟩
  · rw [firing_of_ne hirq, BitVec.add_zero]
    by_cases htick : m = .tick
    · subst htick
      cases h
      rw [tbTick_frame]
      exact ⟨hs, rfl⟩
    · obtain ⟨ht, htb, -⟩ := perform_timebaseFrame hm htick hirq hs h
      exact ⟨ht, by rw [htb]⟩

/-- Over a run that does not start the timebase anew, the count rises by the number of firings, modulo 2^32. -/
theorem performAll_count {ms : List Move} (hms : ms.all keepsTimebase = true) {s t : State} (hs : s.LeavesTimebase)
    (h : performAll ms s = .next t) : t.tb.count = s.tb.count + BitVec.ofNat 32 (timerFirings ms s) := by
  induction ms generalizing s with
  | nil =>
    cases h
    simp [timerFirings]
  | cons m ms ih =>
    obtain ⟨hm, hrest⟩ := Bool.and_eq_true_iff.1 (List.all_cons ▸ hms)
    obtain ⟨u, hu, hrun⟩ := andThen_eq_next h
    obtain ⟨hleaves, hcount⟩ := perform_count hm hs hu
    rw [ih hrest hleaves hrun, hcount, timerFirings_cons hu, BitVec.ofNat_add, BitVec.add_assoc]

/-- Settles O21: TB_RESTART and TB_NOW complete in their step, so `performAll_count` applies to the run after it; TB_NOW
returns the count, which TB_RESTART leaves 0. -/
theorem nowCountsTheFirings : Obligations.NowCountsTheFirings := by
  unfold Obligations.NowCountsTheFirings
  intro s t u v ms hms hrun hnow
  obtain rfl := nowStep_eq hnow
  refine ⟨fun hstart => ?restart, fun hearlier => ?now⟩
  case restart =>
    obtain rfl := restartStep_eq hstart
    have hcount := performAll_count hms (leavesTimebase_of_no_command rfl) hrun
    simpa using hcount
  case now =>
    obtain rfl := nowStep_eq hearlier
    exact ⟨rfl, performAll_count hms (leavesTimebase_of_no_command rfl) hrun⟩

end Sys2Proof.Machine
end

section
/-! PROOFS. Admission (41_bus_address.md R140): the numbered steps of an admitted command meet what the bus primitives
require (20_memory.md R69, R70), in every state, so that its issue answers a next state. -/

namespace Sys2Proof.Machine

/-! ## What a numbered step requires of the bus master -/

/-- The bus master is in the data phase of the command, and the condition the command has waited for still holds at the
steps up to the bus primitive that clears it. -/
def Command.Ready (c : Command) (b : BusMaster) : Prop :=
  match c with
  | .write _ at_ => b.phase = .dataWrite ∧ (at_ = .send → b.wif = true)
  | .writeBytes _ _ _ at_ => b.phase = .dataWrite ∧ (at_ = .send → b.wif = true)
  | .read .wait => b.phase = .dataRead
  | .read (.form _) => True
  | .read _ => b.phase = .dataRead ∧ b.rif = true
  | .readLast .zero => b.phase = .dataRead
  | .readLast .wait => b.phase = .dataRead
  | .readLast (.form _) => True
  | .readLast _ => b.phase = .dataRead ∧ b.rif = true
  | _ => True

/-- The command in progress, if any, is ready for its next numbered step. -/
def State.Ready (s : State) : Prop := ∀ c, s.cmd = some c → c.Ready s.bm

theorem State.Ready.of_command {s : State} {c : Command} (hcmd : s.cmd = some c) (h : c.Ready s.bm) : s.Ready := by
  intro d hd
  cases hcmd.symm.trans hd
  exact h

theorem State.Ready.of_no_command {s : State} (h : s.cmd = none) : s.Ready :=
  fun _ hc => nomatch h.symm.trans hc

/-- The outcome is a next state whose command in progress is ready again. -/
def Proceeds (o : Host.Outcome State Fault Refusal) : Prop := ∃ t, o = .next t ∧ t.Ready

theorem proceeds_goTo {c : Command} {s : State} (h : c.Ready s.bm) : Proceeds (.next (goTo c s)) :=
  ⟨_, rfl, .of_command rfl h⟩

theorem proceeds_complete (v : Word) (s : State) : Proceeds (.next (complete v s)) :=
  ⟨_, rfl, .of_no_command rfl⟩

/-- A wait stays ready where it stands; what it goes on to may use the condition it has waited for. -/
theorem proceeds_waitStep {cond : Bool} {go : Command} {s : State} (hs : s.Ready)
    (hgo : cond = true → go.Ready s.bm) : Proceeds (.next (waitStep cond go s)) := by
  cases cond
  · exact ⟨_, rfl, hs⟩
  · exact proceeds_goTo (hgo rfl)

/-- A byte is sent where `BusSendData` may send it, on the way to a step that needs only the phase. -/
theorem proceeds_busSendData {c : Command} {s : State} (hphase : s.bm.phase = .dataWrite) (hwif : s.bm.wif = true)
    (b : Byte) (hc : ∀ bm : BusMaster, bm.phase = .dataWrite → c.Ready bm) : Proceeds (busSendData b (goTo c s)) :=
  ⟨_, busSendData_of_ready (s := goTo c s) hphase hwif b, .of_command rfl (hc _ hphase)⟩

/-- A received byte is acknowledged where `BusAckAndReceive` may do so, on the way to a step that needs nothing. -/
theorem proceeds_busAckAndReceive {c : Command} {s : State} (h : s.bm.phase = .dataRead ∧ s.bm.rif = true)
    (hc : ∀ bm, c.Ready bm) : Proceeds (busAckAndReceive (goTo c s)) :=
  ⟨_, if_pos h, .of_command rfl (hc _)⟩

theorem proceeds_busNak {c : Command} {s : State} (h : s.bm.phase = .dataRead ∧ s.bm.rif = true)
    (hc : ∀ bm, c.Ready bm) : Proceeds (busNak (goTo c s)) :=
  ⟨_, if_pos h, .of_command rfl (hc _)⟩

/-! ## The commands that use a bus primitive with a requirement -/

theorem stepWrite_proceeds {b : Byte} {at_ : WriteStep} {s : State} (hs : s.Ready)
    (h : (Command.write b at_).Ready s.bm) : Proceeds (stepWrite b at_ s) := by
  obtain ⟨hphase, hwif⟩ := h
  cases at_
  case mode => exact proceeds_goTo ⟨hphase, nofun⟩
  case wait => exact proceeds_waitStep hs fun hw => ⟨hphase, fun _ => hw⟩
  case send => exact proceeds_busSendData hphase (hwif rfl) b fun _ hp => ⟨hp, nofun⟩
  case waitAck => exact proceeds_waitStep hs fun _ => ⟨hphase, nofun⟩
  case form => exact proceeds_complete _ s

theorem stepWriteBytes_proceeds {ptr len i : Word} {at_ : WriteBytesStep} {s : State} (hs : s.Ready)
    (h : (Command.writeBytes ptr len i at_).Ready s.bm) : Proceeds (stepWriteBytes ptr len i at_ s) := by
  obtain ⟨hphase, hwif⟩ := h
  cases at_
  case init | mode | next => exact proceeds_goTo ⟨hphase, nofun⟩
  case test | check =>
    simp only [stepWriteBytes]
    split
    · exact proceeds_complete _ s
    · exact proceeds_goTo ⟨hphase, nofun⟩
  case wait => exact proceeds_waitStep hs fun hw => ⟨hphase, fun _ => hw⟩
  case send => exact proceeds_busSendData hphase (hwif rfl) _ fun _ hp => ⟨hp, nofun⟩
  case waitAck => exact proceeds_waitStep hs fun _ => ⟨hphase, nofun⟩

theorem stepRead_proceeds {at_ : ReadStep} {s : State} (hs : s.Ready) (h : (Command.read at_).Ready s.bm) :
    Proceeds (stepRead at_ s) := by
  cases at_
  case wait => exact proceeds_waitStep hs fun hrif => ⟨h, hrif⟩
  case count | take => exact proceeds_goTo h
  case ack v =>
    rw [stepRead, acknowledgeByte_eq]
    split
    · exact proceeds_busNak h fun _ => trivial
    · exact proceeds_busAckAndReceive h fun _ => trivial
  case form => exact proceeds_complete _ s

theorem stepReadLast_proceeds {at_ : ReadLastStep} {s : State} (hs : s.Ready)
    (h : (Command.readLast at_).Ready s.bm) : Proceeds (stepReadLast at_ s) := by
  cases at_
  case zero => exact proceeds_goTo h
  case wait => exact proceeds_waitStep hs fun hrif => ⟨h, hrif⟩
  case count | take => exact proceeds_goTo h
  case nak v => exact proceeds_busNak h fun _ => trivial
  case form => exact proceeds_complete _ s

/-! ## The commands of the address phase require nothing -/

/-- The steps of RESTART are those of START (R143). -/
theorem stepStart_and_stepRestart_proceed (a : BusAddress) (n : Byte) (at_ : AddrStep) {s : State} (hs : s.Ready) :
    Proceeds (stepStart a n at_ s) ∧ Proceeds (stepRestart a n at_ s) := by
  cases at_
  case issue => exact ⟨proceeds_goTo trivial, proceeds_goTo trivial⟩
  case wait => exact ⟨proceeds_waitStep hs fun _ => trivial, proceeds_waitStep hs fun _ => trivial⟩
  case form => exact ⟨proceeds_complete _ s, proceeds_complete _ s⟩

theorem stepScan_proceeds (a : BusAddress) (at_ : ScanStep) {s : State} (hs : s.Ready) :
    Proceeds (stepScan a at_ s) := by
  cases at_
  case init | probe => exact proceeds_goTo trivial
  case wait => exact proceeds_waitStep hs fun _ => trivial
  case test | next =>
    simp only [stepScan]
    split
    · exact proceeds_complete _ s
    · exact proceeds_goTo trivial

/-! ## Every command -/

theorem engineStep_proceeds {s : State} (hs : s.Ready) : Proceeds (engineStep s) := by
  cases hcmd : s.cmd with
  | none => exact ⟨s, engineStep_of_no_command hcmd, hs⟩
  | some c =>
    have h : c.Ready s.bm := hs c hcmd
    rw [engineStep, hcmd]
    cases c
    case start a n at_ => exact (stepStart_and_stepRestart_proceed a n at_ hs).1
    case restart a n at_ => exact (stepStart_and_stepRestart_proceed a n at_ hs).2
    case scan a at_ => exact stepScan_proceeds a at_ hs
    case write => exact stepWrite_proceeds hs h
    case writeBytes => exact stepWriteBytes_proceeds hs h
    case read => exact stepRead_proceeds hs h
    case readLast => exact stepReadLast_proceeds hs h
    case bmInit | stop | writeAsync | tbInit | tbNow | tbRestart => exact proceeds_complete _ _

theorem engineRun_proceeds (n : Nat) {s : State} (hs : s.Ready) : Proceeds (engineRun n s) := by
  induction n generalizing s with
  | zero => exact ⟨s, rfl, hs⟩
  | succ n ih =>
    obtain ⟨t, hstep, ht⟩ := engineStep_proceeds hs
    rw [engineRun_succ hstep]
    exact ih ht

/-- What the table admits is ready for its first numbered step. -/
theorem commandOf_ready {i : Instr} {s : State} (h : admits i s = true) : (commandOf i s).Ready s.bm := by
  cases i
  case write b =>
    obtain ⟨-, hphase, -⟩ := (admitWrite_eq_none s).1 ((admits_write_iff b s).1 h)
    exact ⟨hphase, nofun⟩
  case writeBytes =>
    obtain ⟨hwrite, -⟩ := (admitWriteBytes_eq_none s).1 ((admits_writeBytes_iff s).1 h)
    obtain ⟨-, hphase, -⟩ := (admitWrite_eq_none s).1 hwrite
    exact ⟨hphase, nofun⟩
  case read => exact ((admitRead_eq_none s).1 ((admits_read_iff s).1 h)).2
  case readLast => exact ((admitRead_eq_none s).1 ((admits_readLast_iff s).1 h)).2
  all_goals trivial

theorem exec_next_of_admits {i : Instr} {s : State} (h : admits i s = true) : ∃ t, exec i s = .next t := by
  obtain ⟨n, hrun⟩ := issue_eq_run (commandOf i s) s
  obtain ⟨t, ht, -⟩ := engineRun_proceeds n (.of_command (s := goTo (commandOf i s) s) rfl (commandOf_ready h))
  exact ⟨t, by rw [exec_of_admits h, hrun, ht]⟩

/-! ## The phase Address between commands -/

/-- Between commands no address byte is in flight, and a data byte or a reception in flight would be in its own data
phase. -/
theorem no_transfer_in_address {s : State} (hinv : s.Inv) (hcmd : s.cmd = none) (hphase : s.bm.phase = .address) :
    s.bm.inflight = .none := by
  have hrest := hinv.command
  rw [hcmd] at hrest
  obtain ⟨haddr, -⟩ := hrest
  cases hin : s.bm.inflight with
  | none => rfl
  | addr => exact absurd hin haddr
  | data => cases hphase.symm.trans (hinv.bus.dataDataWrite hin)
  | recv => cases hphase.symm.trans (hinv.bus.recvDataRead hin)

/-- Settles O13: an admitted command is ready and every numbered step keeps that, admission refuses the others, and the
invariant says what a phase Address without a transfer in flight is. -/
theorem commandsRunExactlyWhereAdmitted : Obligations.CommandsRunExactlyWhereAdmitted := by
  unfold Obligations.CommandsRunExactlyWhereAdmitted
  refine ⟨fun i s => ⟨exec_next_of_admits, exec_refused_of_not_admits⟩, fun s hinv hcmd hen hphase => ?_⟩
  have hin := no_transfer_in_address hinv hcmd hphase
  exact ⟨hin, hinv.settled.addressFailed hen hphase hin⟩

end Sys2Proof.Machine
end

section
/-! PROOFS. The exclusion of 43_bus_pump.md R193: an asynchronous write bars every bus command by name, the transmit
strategies are not mixed, and what makes a transaction choose its strategy anew. -/

namespace Sys2Proof.Machine

/-! ## The first reason to refuse -/

@[simp] theorem orElseRefuse_some (r : Refusal) (b : Option Refusal) : orElseRefuse (some r) b = some r := rfl

@[simp] theorem admitted_some (r : Refusal) (go : Host.Outcome State Fault Refusal) :
    admitted (some r) go = .refused r := rfl

theorem admitEnabled_of_admitBus {s : State} {r : Refusal} (h : admitBus s = some r) : admitEnabled s = some r := by
  rw [admitEnabled, h, orElseRefuse_some]

/-- What bars any bus command is the reason named, whatever else would refuse the command (log 15). -/
theorem exec_refused_of_admitBus {i : Instr} {s : State} {r : Refusal} (hi : isTimebaseCommand i = false)
    (h : admitBus s = some r) : exec i s = .refused r := by
  have hen := admitEnabled_of_admitBus h
  cases i
  case bmInit => simp only [exec, execBmInit, admitInit, h, orElseRefuse_some, admitted_some]
  case scan | start | restart =>
    simp only [exec, execScan, execStart, execRestart, admitAddress, hen, orElseRefuse_some, admitted_some]
  case stop => simp only [exec, execStop, admitStop, hen, orElseRefuse_some, admitted_some]
  case write | writeBytes =>
    simp only [exec, execWrite, execWriteBytes, admitWriteBytes, admitWrite, hen, orElseRefuse_some, admitted_some]
  case writeAsync => simp only [exec, execWriteAsync, admitAsync, hen, orElseRefuse_some, admitted_some]
  case read | readLast => simp only [exec, execRead, execReadLast, admitRead, hen, orElseRefuse_some, admitted_some]
  case tbInit | tbNow | tbRestart => cases hi

/-! ## The asynchronous write in progress -/

theorem admitBus_of_pumping {s : State} (hcmd : s.cmd = none) (hpact : s.bm.pact = true) :
    admitBus s = some .pumpActive := by
  rw [admitBus, (admitAny_eq_none s).2 hcmd, hpact]
  rfl

/-! ## The strategies of one transaction -/

theorem exec_refused_of_table {i : Instr} {s : State} (h : tableAdmits i s.bm = false) :
    ∃ r, exec i s = .refused r :=
  exec_refused_of_not_admits (by simp [admits, h])

theorem tableAdmits_polling_of_pump {b : BusMaster} (h : b.txmode = .pump) :
    (∀ x, tableAdmits (.write x) b = false) ∧ tableAdmits .writeBytes b = false := by
  simp [tableAdmits, h]

theorem tableAdmits_writeAsync_of_polling {b : BusMaster} (h : b.txmode = .polling) :
    tableAdmits .writeAsync b = false := by
  simp [tableAdmits, h]

/-- The one numbered step of STOP (41_bus_address.md R144). -/
theorem engineStep_stop {s : State} (h : s.cmd = some .stop) :
    engineStep s = .next (complete noResult (busStop s)) := by
  rw [engineStep, h]
  rfl

/-- Settles O15: `BM.PACT` is the first reason every bus command tests and no timebase command tests, the table refuses
the strategy not chosen, and the address phase and STOP write `BM.TXMODE`. -/
theorem pumpExcludesBusCommands : Obligations.PumpExcludesBusCommands := by
  unfold Obligations.PumpExcludesBusCommands
  refine ⟨fun i s hcmd hpact hi => ?bus, fun s hcmd _ => ?timebase, fun s b _ _ _ _ => ?strategies,
    fun ab s => ?addressPhase, fun s t hcmd h => ?stop⟩
  case bus => exact exec_refused_of_admitBus hi (admitBus_of_pumping hcmd hpact)
  case timebase =>
    have hany : admitAny s = none := (admitAny_eq_none s).2 hcmd
    exact ⟨exec_next_of_admits ((admits_tbInit_iff s).2 hany), exec_next_of_admits ((admits_tbRestart_iff s).2 hany),
      fun hrun => exec_next_of_admits ((admits_tbNow_iff s).2 ((admitNow_eq_none s).2 ⟨hcmd, hrun⟩)), ⟨_, rfl⟩⟩
  case strategies =>
    refine ⟨fun hpump => ?_, fun hpolling => exec_refused_of_table (tableAdmits_writeAsync_of_polling hpolling)⟩
    obtain ⟨hwrite, hwriteBytes⟩ := tableAdmits_polling_of_pump hpump
    exact ⟨exec_refused_of_table (hwrite b), exec_refused_of_table hwriteBytes⟩
  case addressPhase => rw [busAddrPhase_bm]
  case stop =>
    cases (engineStep_stop hcmd).symm.trans h
    rfl

end Sys2Proof.Machine
end

section
/-! PROOFS. The sticky bits and the power-on reset (70_reset_and_hazards.md R235, R236): every step but a power-on reset
keeps `IF.CMDFAULT`, `BM.EN`, `TB.RUN` and `TB.IE` once they are set, and a power-on reset leaves the reset table. -/

namespace Sys2Proof.Machine

/-- Each of the four bits that only a reset clears stays set where it was set (R236). -/
def KeepsSticky (s t : State) : Prop :=
  (s.ifc.cmdfault = true → t.ifc.cmdfault = true) ∧ (s.bm.en = true → t.bm.en = true) ∧
  (s.tb.run = true → t.tb.run = true) ∧ (s.tb.ie = true → t.tb.ie = true)

theorem KeepsSticky.refl (s : State) : KeepsSticky s s := ⟨id, id, id, id⟩

theorem KeepsSticky.trans {s t u : State} (h : KeepsSticky s t) (k : KeepsSticky t u) : KeepsSticky s u := by
  obtain ⟨hfault, hen, hrun, hie⟩ := h
  obtain ⟨kfault, ken, krun, kie⟩ := k
  exact ⟨kfault ∘ hfault, ken ∘ hen, krun ∘ hrun, kie ∘ hie⟩

/-- A step that writes none of the four. -/
theorem KeepsSticky.of_eq {s t : State} (hfault : t.ifc.cmdfault = s.ifc.cmdfault) (hen : t.bm.en = s.bm.en)
    (hrun : t.tb.run = s.tb.run) (hie : t.tb.ie = s.tb.ie) : KeepsSticky s t :=
  ⟨hfault.trans, hen.trans, hrun.trans, hie.trans⟩

/-! ## The engine and the commands -/

/-- A numbered step leaves the timebase alone, or it is the one that starts it anew (40_timebase.md R120, R122). -/
theorem engineStep_tb {s t : State} (h : engineStep s = .next t) :
    t.tb = s.tb ∨ (t.tb.run = true ∧ t.tb.ie = true) := by
  cases hcmd : s.cmd with
  | none =>
    cases (engineStep_of_no_command hcmd).symm.trans h
    exact .inl rfl
  | some c =>
    have keeps : c.mnemonic ≠ "TB_INIT" → c.mnemonic ≠ "TB_RESTART" → t.tb = s.tb := fun hinit hrestart => by
      obtain ⟨-, htb, -⟩ := engineStep_timebaseFrame ⟨c.mnemonic, hcmd ▸ .some rfl, hinit, hrestart⟩ h
      exact htb
    cases c
    case tbInit | tbRestart =>
      rw [engineStep, hcmd] at h
      cases h
      exact .inr ⟨rfl, rfl⟩
    all_goals exact .inl (keeps (by simp [Command.mnemonic]) (by simp [Command.mnemonic]))

theorem engineStep_keepsSticky {s t : State} (h : engineStep s = .next t) : KeepsSticky s t := by
  obtain ⟨hframe, hen, -⟩ := engineStep_commandFrame h
  have hfault : t.ifc.cmdfault = s.ifc.cmdfault := by rw [hframe]
  rcases engineStep_tb h with htb | ⟨hrun, hie⟩
  · exact ⟨hfault.trans, hen, htb ▸ id, htb ▸ id⟩
  · exact ⟨hfault.trans, hen, fun _ => hrun, fun _ => hie⟩

theorem engineRun_keepsSticky {n : Nat} {s t : State} (h : engineRun n s = .next t) : KeepsSticky s t :=
  engineRun_induct (P := KeepsSticky s) (fun k hk => k.trans (engineStep_keepsSticky hk)) (.refl s) h

theorem exec_keepsSticky {i : Instr} {s t : State} (h : exec i s = .next t) : KeepsSticky s t := by
  obtain ⟨n, hrun⟩ := exec_eq_run h
  exact engineRun_keepsSticky (s := goTo (commandOf i s) s) hrun

/-! ## The other agents -/

theorem answerAddress_en (x : AddrAnswer) (s : State) : (answerAddress x s).bm.en = s.bm.en := by
  cases x
  case ack => cases hdir : s.bm.dir <;> simp [answerAddress, addressAccepted, hdir, record]
  all_goals rfl

theorem envStep_en {e : EnvEvent} {s t : State} (h : envStep e s = .next t) : t.bm.en = s.bm.en := by
  cases e
  case addr x =>
    rcases envAddr_eq_next h with ⟨-, rfl⟩ | ⟨-, rfl⟩
    · exact answerAddress_en x s
    · rfl
  case data a =>
    cases h
    rw [envData_eq]
    split <;> rfl
  case recv b =>
    cases h
    rw [envRecv_eq]
    split <;> rfl

theorem pumpIsr_en {s t : State} (h : pumpIsr s = .next t) : t.bm.en = s.bm.en := by
  unfold pumpIsr at h
  split at h
  · split at h
    · obtain ⟨-, rfl⟩ := busSendData_eq_next h
      rfl
    · cases h
      rfl
  · cases h
    rfl

/-- A host access sets `IF.CMDFAULT` at most (30_encoding.md R97), and a command it issues keeps the four. -/
theorem hostStep_keepsSticky {a : HostAction} {s t : State} (h : hostStep a s = .next t) : KeepsSticky s t := by
  cases a
  case command w =>
    rw [hostStep, hostCommand] at h
    split at h
    next =>
      cases h
      exact ⟨fun _ => rfl, id, id, id⟩
    next => exact exec_keepsSticky h
  case readStatus =>
    cases h
    exact .of_eq rfl rfl rfl rfl
  all_goals
    obtain ⟨-, rfl⟩ := hostAccess_eq_next h
    exact .of_eq rfl rfl rfl rfl

theorem perform_keepsSticky {m : Move} (hm : m ≠ .powerOn) {s t : State} (h : perform m s = .next t) :
    KeepsSticky s t := by
  cases m
  case host a => exact hostStep_keepsSticky h
  case engine => exact engineStep_keepsSticky h
  case env e =>
    have hen := envStep_en h
    rw [envStep_frame h]
    exact .of_eq rfl hen rfl rfl
  case tick =>
    cases h
    rw [tbTick_frame]
    exact .of_eq rfl rfl rfl rfl
  case timerIrq =>
    cases h
    rw [tbIsr_frame]
    exact .of_eq rfl rfl rfl rfl
  case pumpIrq =>
    have hen := pumpIsr_en h
    rw [pumpIsr_frame h]
    exact .of_eq rfl hen rfl rfl
  case powerOn => exact absurd rfl hm

/-! ## The step of the machine -/

theorem step_of_none_due {s : State} (h : s.schedule = []) : step s = engineRun longestStretch s := by
  rw [step, takeMove, h]
  simp only [engineTurn, h]

theorem step_keepsSticky {s t : State} (hpower : ∀ ms, s.schedule ≠ .powerOn :: ms) (h : step s = .next t) :
    KeepsSticky s t := by
  cases hs : s.schedule with
  | nil =>
    rw [step_of_none_due hs] at h
    exact engineRun_keepsSticky h
  | cons m ms =>
    have hm : m ≠ .powerOn := fun hm => hpower ms (hm ▸ hs)
    rw [step_of_due hs] at h
    exact perform_keepsSticky (s := { s with schedule := ms }) hm h

/-- What a power-on reset keeps (log 20) is outside the reset table. -/
theorem powerOnReset_atResetValues (s : State) : (powerOnReset s).AtResetValues := by
  constructor <;> rfl

/-- Settles O12: every step but a power-on reset by `step_keepsSticky`, the reset by `powerOnReset_atResetValues`. -/
theorem onlyResetClearsTheStickyBits : Obligations.OnlyResetClearsTheStickyBits := by
  unfold Obligations.OnlyResetClearsTheStickyBits
  refine ⟨fun s t h hpower => step_keepsSticky hpower h, fun s ms hdue => ?_⟩
  exact ⟨_, step_of_due hdue, powerOnReset_atResetValues _, rfl⟩

end Sys2Proof.Machine
end

section
/-! PROOFS. The word of a command (30_encoding.md R90 to R92, R95): encoding and decoding undo each other. -/

namespace Sys2Proof

open Sys2Proof.Laws

/-! ## The fields of an encoded command -/

theorem opcodeField_encode (i : Instr) : opcodeField (encode i) = i.opcode := by
  cases i
  case start a n | restart a n => exact opcodeField_encodeAddressed _ a n
  case write b => exact opcodeField_encodeByte _ b
  all_goals exact opcodeField_encodeBare _

theorem reserved_encode (i : Instr) : encode i &&& reservedBits i.format = 0#32 := by
  cases i
  case start a n | restart a n => exact (reserved_addressed_iff _).2 (reserved_encodeAddressed _ a n)
  case write b => exact (reserved_byte_iff _).2 (reserved_encodeByte _ b)
  all_goals exact (reserved_bare_iff _).2 (reserved_encodeBare _)

theorem encode_matches (i : Instr) : i.Matches (encode i) := ⟨opcodeField_encode i, reserved_encode i⟩

theorem withFields_encode (i : Instr) : i.withFields (encode i) = i := by
  cases i
  case start a n | restart a n =>
    simp only [Instr.withFields, encode, addrField_encodeAddressed, lowField_encodeAddressed]
  case write b => simp only [Instr.withFields, encode, lowField_encodeByte]
  all_goals rfl

/-- Settles O1: the word of a command has its opcode, clear reserved bits and its operands, which is what the decoder
asks for. -/
theorem decodeReadsBackEveryCommand : Obligations.DecodeReadsBackEveryCommand := by
  unfold Obligations.DecodeReadsBackEveryCommand
  exact fun i => decode_eq_ok_iff.2 ⟨encode_matches i, withFields_encode i⟩

/-! ## The word of a decoded command -/

theorem encodeBare_of_fields {w : Word} {op : Byte} (hop : opcodeField w = op) (hr : w.extractLsb' 0 24 = 0#24) :
    encodeBare op = w := by
  rw [encodeBare, ← hr, ← hop, opcodeField_append_low]

theorem encodeByte_of_fields {w : Word} {op : Byte} (hop : opcodeField w = op) (hr : w.extractLsb' 8 16 = 0#16) :
    encodeByte op (lowField w) = w := by
  rw [encodeByte, ← hr, ← hop, opcodeField, lowField,
    BitVec.extractLsb'_append_extractLsb'_eq_extractLsb' (show 24 = 8 + 16 from rfl),
    BitVec.extractLsb'_append_extractLsb'_eq_extractLsb' (show 8 = 0 + 8 from rfl)]
  exact extract_all w

theorem encodeAddressed_of_fields {w : Word} {op : Byte} (hop : opcodeField w = op)
    (hr : w.extractLsb' 15 9 = 0#9) : encodeAddressed op (addrField w) (lowField w) = w := by
  rw [encodeAddressed, ← hr, ← hop, opcodeField, addrField, lowField,
    BitVec.extractLsb'_append_extractLsb'_eq_extractLsb' (show 24 = 15 + 9 from rfl),
    BitVec.extractLsb'_append_extractLsb'_eq_extractLsb' (show 15 = 8 + 7 from rfl),
    BitVec.extractLsb'_append_extractLsb'_eq_extractLsb' (show 8 = 0 + 8 from rfl)]
  exact extract_all w

/-- A word is the word of the command it matches, with the operands it carries. -/
theorem encode_withFields {w : Word} {i : Instr} (h : i.Matches w) : encode (i.withFields w) = w := by
  obtain ⟨hop, hr⟩ := h
  cases i
  case start | restart => exact encodeAddressed_of_fields hop ((reserved_addressed_iff w).1 hr)
  case write => exact encodeByte_of_fields hop ((reserved_byte_iff w).1 hr)
  all_goals exact encodeBare_of_fields hop ((reserved_bare_iff w).1 hr)

/-- Settles O2: a decoded word matches its command, and the command has the word's operands. -/
theorem encodeRebuildsEveryDecodedWord : Obligations.EncodeRebuildsEveryDecodedWord := by
  unfold Obligations.EncodeRebuildsEveryDecodedWord
  intro w i h
  obtain ⟨hmatches, hfields⟩ := decode_eq_ok_iff.1 h
  rw [← hfields, encode_withFields hmatches]

/-- Settles O5: each vector is evaluated. -/
theorem vectorWordsDecode : Obligations.VectorWordsDecode := by
  unfold Obligations.VectorWordsDecode
  decide

end Sys2Proof
end

section
/-! PROOFS. The invariant of the machine at the bus master (10_state.md R37, 41_bus_address.md R146, 42_bus_data.md
R174): each bus primitive, each answer of the environment and each firing of the pump keeps the bus master what the
trace says it is. -/

namespace Sys2Proof.Machine

/-- The bus master meets its own invariants and is what the view of the trace stands for. -/
structure BusMaster.Agrees (b : BusMaster) (v : BusView) : Prop where
  bus : b.Inv
  settled : b.Settled
  disabled : b.en = false →
    v = .idle ∧ b.inflight = .none ∧ b.pact = false ∧ b.phase ≠ .dataWrite ∧ b.phase ≠ .dataRead
  view : b.en = true → b.matchesView v = true

/-! ## The view after one event -/

@[simp] theorem after_tx_started (ab : Byte) : BusView.started.after (.tx ab) = .addressed (directionOfByte ab) := rfl
@[simp] theorem after_tx_writing (x : Byte) : BusView.writing.after (.tx x) = .sending := rfl
@[simp] theorem after_slave_sending (a : Ack) : BusView.sending.after (.slave a) = .writing := by cases a <;> rfl
@[simp] theorem after_ack_write : (BusView.addressed .write).after (.slave .ack) = .writing := rfl
@[simp] theorem after_ack_read : (BusView.addressed .read).after (.slave .ack) = .receiving := rfl
@[simp] theorem after_rx_receiving (x : Byte) : BusView.receiving.after (.rx x) = .holding := rfl
@[simp] theorem after_masterAck_holding : BusView.holding.after (.master .ack) = .receiving := rfl
@[simp] theorem after_masterNak_holding : BusView.holding.after (.master .nak) = .closed := rfl

theorem busView_append (t es : List BusEvent) : busView (t ++ es) = es.foldl BusView.after (busView t) :=
  List.foldl_append

namespace BusMaster.Agrees

variable {b : BusMaster} {v : BusView}

/-! ## What a state of the bus master implies -/

/-- A reported condition means that nothing is in flight. -/
theorem inflight_of_condition (h : b.Agrees v) (hc : b.wif = true ∨ b.rif = true) : b.inflight = .none := by
  by_contra hin
  obtain ⟨hwif, hrif⟩ := h.bus.inflightNoCondition hin
  simp [hwif, hrif] at hc

theorem enabled_of_inflight (h : b.Agrees v) (hin : b.inflight ≠ .none) : b.en = true := by
  by_contra hen
  exact hin (h.disabled (by simpa using hen)).2.1

theorem enabled_of_data (h : b.Agrees v) (hphase : b.phase = .dataWrite ∨ b.phase = .dataRead) : b.en = true := by
  by_contra hen
  obtain ⟨-, -, -, hwrite, hread⟩ := h.disabled (by simpa using hen)
  exact hphase.elim hwrite hread

/-- A bus that was lost leaves the phase Address. -/
theorem not_lost (h : b.Agrees v) (hphase : b.phase ≠ .address) : b.arblost = false ∧ b.buserr = false := by
  constructor <;> by_contra hl <;> exact hphase (h.settled.lostAddress (by simp [hl])).1

theorem not_lost_of_inflight (h : b.Agrees v) (hin : b.inflight ≠ .none) : b.arblost = false ∧ b.buserr = false := by
  constructor <;> by_contra hl <;> exact hin (h.settled.lostAddress (by simp [hl])).2

theorem rif_of_phase_ne (h : b.Agrees v) (hphase : b.phase ≠ .dataRead) : b.rif = false := by
  by_contra hrif
  exact hphase (h.bus.rifDataRead (by simpa using hrif))

theorem pact_of_phase_ne (h : b.Agrees v) (hphase : b.phase ≠ .dataWrite) : b.pact = false := by
  by_contra hp
  exact hphase (h.bus.pump (by simpa using hp)).1

theorem txmode_of_phase_ne (h : b.Agrees v) (hphase : b.phase ≠ .dataWrite) : b.txmode = .none := by
  by_contra ht
  exact hphase (h.settled.strategy ht)

/-- While nothing is in flight and no byte is held the bus takes a start condition. -/
theorem after_start (h : b.Agrees v) (hen : b.en = true) (hin : b.inflight = .none) (hrif : b.rif = false) :
    v.after .start = .started := by
  have hv := h.view hen
  cases hphase : b.phase <;> simp [matchesView, hphase, hin, hrif] at hv
  case idle => rcases hv with rfl | rfl <;> rfl
  case address => split at hv <;> subst hv <;> rfl
  case dataWrite | dataRead => subst hv; rfl

theorem view_holding (h : b.Agrees v) (hphase : b.phase = .dataRead) (hrif : b.rif = true) : v = .holding := by
  have hin := h.inflight_of_condition (.inr hrif)
  simpa [matchesView, hphase, hin, hrif] using h.view (h.enabled_of_data (.inr hphase))

theorem view_addressed (h : b.Agrees v) (hin : b.inflight = .addr) : v = .addressed b.dir := by
  have hen := h.enabled_of_inflight (by simp [hin])
  simpa [matchesView, h.bus.addrAddress hin, hin] using h.view hen

/-! ## Fields that no invariant reads -/

theorem setCount (h : b.Agrees v) (n : Byte) : { b with rdcnt := n }.Agrees v :=
  ⟨{ h.bus with }, { h.settled with }, h.disabled, h.view⟩

theorem setCursor (h : b.Agrees v) (p : Word) : { b with cur := p }.Agrees v :=
  ⟨{ h.bus with }, { h.settled with }, h.disabled, h.view⟩

/-! ## The bus primitives (20_memory.md R66, R69 to R71) -/

theorem addressPhase (h : b.Agrees v) (hen : b.en = true) (hpact : b.pact = false) (hin : b.inflight = .none)
    (hrif : b.rif = false) (ab : Byte) :
    { b with
      wif := false, rif := false, arblost := false, buserr := false, phase := .address, dir := directionOfByte ab,
      txmode := .none, inflight := .addr }.Agrees ((v.after .start).after (.tx ab)) where
  bus := by constructor <;> simp [hpact]
  settled := by constructor <;> simp [h.settled.wieIffPact]
  disabled := by simp [hen]
  view := by simp [h.after_start hen hin hrif, matchesView]

theorem sendByte (h : b.Agrees v) (hphase : b.phase = .dataWrite) (hwif : b.wif = true) (x : Byte) :
    { b with data := x, wif := false, inflight := .data }.Agrees (v.after (.tx x)) := by
  have hin := h.inflight_of_condition (.inl hwif)
  have hen := h.enabled_of_data (.inl hphase)
  have hrif := h.rif_of_phase_ne (by simp [hphase])
  obtain ⟨harb, herr⟩ := h.not_lost (by simp [hphase])
  obtain rfl : v = .writing := by simpa [matchesView, hphase, hin] using h.view hen
  refine ⟨?bus, ?settled, by simp [hen], by simp [matchesView, hphase]⟩
  case bus => constructor <;> simp [hphase, hrif, h.bus.writeDir hphase]; exact fun hp => (h.bus.pump hp).2
  case settled => constructor <;> simp [hphase, harb, herr, h.settled.wieIffPact]

/-- What the acknowledge bits of the master have in common: the condition is cleared, in DataRead. -/
theorem clearRif (h : b.Agrees v) (hphase : b.phase = .dataRead) (a : Ack) (fly : Inflight)
    (hfly : fly = .none ∨ fly = .recv) (w : BusView)
    (hw : { b with ackact := a, rif := false, inflight := fly }.matchesView w = true) :
    { b with ackact := a, rif := false, inflight := fly }.Agrees w := by
  have hen := h.enabled_of_data (.inr hphase)
  have hwif := h.settled.readNoWif hphase
  have hpact := h.pact_of_phase_ne (by simp [hphase])
  have htx := h.txmode_of_phase_ne (by simp [hphase])
  obtain ⟨harb, herr⟩ := h.not_lost (by simp [hphase])
  refine ⟨?bus, ?settled, by simp [hen], fun _ => hw⟩
  case bus =>
    rcases hfly with rfl | rfl <;> constructor <;> simp [hphase, hwif, hpact, h.bus.readDir hphase]
  case settled => constructor <;> simp [hphase, hwif, harb, herr, htx, h.settled.wieIffPact]

theorem acknowledge (h : b.Agrees v) (hphase : b.phase = .dataRead) (hrif : b.rif = true) :
    { b with ackact := .ack, rif := false, inflight := .recv }.Agrees (v.after (.master .ack)) :=
  h.clearRif hphase _ _ (.inr rfl) _ (by simp [h.view_holding hphase hrif, matchesView, hphase])

theorem nak (h : b.Agrees v) (hphase : b.phase = .dataRead) (hrif : b.rif = true) :
    { b with ackact := .nak, rif := false, inflight := .none }.Agrees (v.after (.master .nak)) :=
  h.clearRif hphase _ _ (.inl rfl) _ (by simp [h.view_holding hphase hrif, matchesView, hphase])

/-- Idle with nothing in flight and no condition, as STOP and BM_INIT leave the bus master. -/
theorem of_idle {w : BusView} (hphase : b.phase = .idle) (hin : b.inflight = .none) (htx : b.txmode = .none)
    (hwif : b.wif = false) (hrif : b.rif = false) (harb : b.arblost = false) (herr : b.buserr = false)
    (hwie : b.wie = false) (hpact : b.pact = false) (hen : b.en = true) (hw : w = .idle ∨ w = .lost) :
    b.Agrees w where
  bus := by constructor <;> simp [hphase, hin, hwif, hrif, hpact]
  settled := by constructor <;> simp [hphase, hin, hwif, harb, herr, htx, hwie, hpact]
  disabled := by simp [hen]
  view := fun _ => by simpa [matchesView, hphase] using hw

/-- What STOP leaves on the bus (20_memory.md R71): no transaction, or a bus that was lost before. -/
theorem view_after_stop (h : b.Agrees v) (hen : b.en = true) (hphase : b.phase ≠ .idle) (hin : b.inflight = .none)
    (hrif : b.rif = false) :
    (if b.owns then [BusEvent.stop] else []).foldl BusView.after v = .idle ∨
      (if b.owns then [BusEvent.stop] else []).foldl BusView.after v = .lost := by
  have hv := h.view hen
  cases hp : b.phase
  case idle => exact absurd hp hphase
  case address =>
    cases harb : b.arblost <;> cases herr : b.buserr <;> simp [matchesView, hp, hin, harb, herr] at hv <;> subst hv <;>
      simp [owns, hp, hin, harb, herr, BusView.after]
  case dataWrite | dataRead =>
    obtain ⟨harb, herr⟩ := h.not_lost (by simp [hp])
    simp [matchesView, hp, hin, hrif] at hv
    subst hv
    simp [owns, hp, hin, harb, herr, BusView.after]

theorem stop (h : b.Agrees v) (hen : b.en = true) (hpact : b.pact = false) (hphase : b.phase ≠ .idle)
    (hin : b.inflight = .none) (hrif : b.rif = false) :
    { b with
      phase := .idle, inflight := .none, txmode := .none, wif := false, rif := false, arblost := false,
      buserr := false }.Agrees ((if b.owns then [BusEvent.stop] else []).foldl BusView.after v) :=
  of_idle rfl rfl rfl rfl rfl rfl rfl (h.settled.wieIffPact.trans hpact) hpact hen
    (h.view_after_stop hen hphase hin hrif)

/-! ## The one-step commands and the pump (41_bus_address.md R141, 43_bus_pump.md R190, R191) -/

theorem enable (h : b.Agrees v) (hidle : b.en = true → b.phase = .idle) (baud : BitVec Config.baudW) :
    { b with
      baud := baud, en := true, phase := .idle, inflight := .none, txmode := .none, wif := false, rif := false,
      arblost := false, buserr := false, wie := false, pact := false }.Agrees v := by
  refine of_idle rfl rfl rfl rfl rfl rfl rfl rfl rfl rfl ?_
  cases hen : b.en
  · exact .inl (h.disabled hen).1
  · simpa [matchesView, hidle hen] using h.view hen

theorem choosePolling (h : b.Agrees v) (hphase : b.phase = .dataWrite) (hpact : b.pact = false) :
    { b with txmode := .polling }.Agrees v :=
  ⟨{ h.bus with pump := by simp [hpact] }, { h.settled with strategy := fun _ => hphase }, h.disabled, h.view⟩

theorem armPump (h : b.Agrees v) (hphase : b.phase = .dataWrite) (cur fin : Word) :
    { b with cur := cur, fin := fin, pdone := false, pact := true, txmode := .pump, wie := true }.Agrees v :=
  ⟨{ h.bus with pump := by simp [hphase] }, { h.settled with wieIffPact := rfl, strategy := fun _ => hphase },
    by simp [h.enabled_of_data (.inl hphase)], h.view⟩

theorem pumpFinish (h : b.Agrees v) : { b with pdone := true, pact := false, wie := false }.Agrees v :=
  ⟨{ h.bus with pump := nofun }, { h.settled with wieIffPact := rfl },
    fun hen => by simpa using (h.disabled hen).imp_right fun hd => ⟨hd.1, hd.2.2⟩, h.view⟩

/-! ## The answers of the environment (20_memory.md R67 to R69) -/

theorem addressAccepted_write (h : b.Agrees v) (hin : b.inflight = .addr) (hdir : b.dir = .write) :
    { b with rxack := .ack, phase := .dataWrite, inflight := .none, wif := true }.Agrees (v.after (.slave .ack)) := by
  have hphase := h.bus.addrAddress hin
  have hen := h.enabled_of_inflight (by simp [hin])
  have hrif := h.rif_of_phase_ne (by simp [hphase])
  have hpact := h.pact_of_phase_ne (by simp [hphase])
  have hlost := h.not_lost_of_inflight (by simp [hin])
  refine ⟨?bus, ?settled, by simp [hen], by simp [h.view_addressed hin, hdir, matchesView]⟩
  case bus => constructor <;> simp [hdir, hrif, hpact]
  case settled => constructor <;> simp [hlost, h.settled.wieIffPact]

theorem addressAccepted_read (h : b.Agrees v) (hin : b.inflight = .addr) (hdir : b.dir = .read) :
    { b with rxack := .ack, phase := .dataRead, inflight := .recv }.Agrees (v.after (.slave .ack)) := by
  have hphase := h.bus.addrAddress hin
  have hen := h.enabled_of_inflight (by simp [hin])
  obtain ⟨hwif, hrif⟩ := h.bus.inflightNoCondition (by simp [hin])
  have hpact := h.pact_of_phase_ne (by simp [hphase])
  have htx := h.txmode_of_phase_ne (by simp [hphase])
  have hlost := h.not_lost_of_inflight (by simp [hin])
  refine ⟨?bus, ?settled, by simp [hen], by simp [h.view_addressed hin, hdir, matchesView]⟩
  case bus => constructor <;> simp [hdir, hwif, hrif, hpact]
  case settled => constructor <;> simp [hlost, hwif, htx, h.settled.wieIffPact]

/-- An address phase fails by a NAK or by the loss of the bus. -/
theorem addressFailed (h : b.Agrees v) (hin : b.inflight = .addr) {r : Ack} {arb err : Bool} {w : BusView}
    (hfail : (arb || err) = true ∨ r = .nak) (hw : w = if arb || err then .lost else .unanswered) :
    { b with
      rxack := r, arblost := b.arblost || arb, buserr := b.buserr || err, inflight := .none
      wif := true }.Agrees w := by
  have hphase := h.bus.addrAddress hin
  have hen := h.enabled_of_inflight (by simp [hin])
  have hrif := h.rif_of_phase_ne (by simp [hphase])
  have hpact := h.pact_of_phase_ne (by simp [hphase])
  have htx := h.txmode_of_phase_ne (by simp [hphase])
  obtain ⟨harb, herr⟩ := h.not_lost_of_inflight (by simp [hin])
  refine ⟨?bus, ?settled, by simp [hen], ?view⟩
  case bus => constructor <;> simp [hphase, hrif, hpact]
  case settled =>
    constructor <;> simp [hphase, hpact, htx, harb, herr, addressAcked, h.settled.wieIffPact]
    rcases hfail with hf | rfl
    · exact fun _ _ hno => by simpa [hno] using hf
    · simp
  case view => cases arb <;> cases err <;> simp [hw, harb, herr, hphase, matchesView]

theorem dataAnswered (h : b.Agrees v) (hin : b.inflight = .data) (a : Ack) :
    { b with rxack := a, inflight := .none, wif := true }.Agrees (v.after (.slave a)) := by
  have hphase := h.bus.dataDataWrite hin
  have hen := h.enabled_of_inflight (by simp [hin])
  have hrif := h.rif_of_phase_ne (by simp [hphase])
  obtain ⟨harb, herr⟩ := h.not_lost_of_inflight (by simp [hin])
  obtain rfl : v = .sending := by simpa [matchesView, hphase, hin] using h.view hen
  refine ⟨?bus, ?settled, by simp [hen], by simp [matchesView, hphase]⟩
  case bus => constructor <;> simp [hphase, hrif, h.bus.writeDir hphase]; exact fun hp => (h.bus.pump hp).2
  case settled => constructor <;> simp [hphase, harb, herr, h.settled.wieIffPact]

theorem received (h : b.Agrees v) (hin : b.inflight = .recv) (x : Byte) :
    { b with data := x, inflight := .none, rif := true }.Agrees (v.after (.rx x)) := by
  have hphase := h.bus.recvDataRead hin
  have hen := h.enabled_of_inflight (by simp [hin])
  have hwif := h.settled.readNoWif hphase
  have hpact := h.pact_of_phase_ne (by simp [hphase])
  have htx := h.txmode_of_phase_ne (by simp [hphase])
  obtain ⟨harb, herr⟩ := h.not_lost_of_inflight (by simp [hin])
  obtain rfl : v = .receiving := by simpa [matchesView, hphase, hin] using h.view hen
  refine ⟨?bus, ?settled, by simp [hen], by simp [matchesView, hphase]⟩
  case bus => constructor <;> simp [hphase, hwif, hpact, h.bus.readDir hphase]
  case settled => constructor <;> simp [hphase, hwif, harb, herr, htx, h.settled.wieIffPact]

/-- The trace of a bus master that agrees with it keeps the protocol. -/
theorem not_broken (h : b.Agrees v) : v ≠ .broken := by
  rintro rfl
  cases hen : b.en
  · cases (h.disabled hen).1
  · have hv := h.view hen
    cases hphase : b.phase <;> simp [matchesView, hphase] at hv

end BusMaster.Agrees

end Sys2Proof.Machine
end

section
/-! PROOFS. Every step keeps the invariant of the machine (10_state.md R37, 41_bus_address.md R146, 42_bus_data.md
R174): the numbered steps command by command, then the moves of the other agents. -/

namespace Sys2Proof.Machine

/-! ## The invariant in three parts -/

/-- The parts of the invariant that do not speak of the command in progress. -/
structure State.Sound (s : State) : Prop where
  agrees : s.bm.Agrees (busView s.trace)
  mem : Memory.wf s.mem = true

/-- What stands at the command in progress, or between commands. -/
def CommandStands (cmd : Option Command) (b : BusMaster) : Prop :=
  match cmd with
  | some c => (c.onBus = true → b.en = true ∧ b.pact = false) ∧ c.Holds b
  | none => b.AtRest

theorem State.Inv.sound {s : State} (h : s.Inv) : s.Sound :=
  ⟨⟨h.bus, h.settled, h.disabled, h.view⟩, h.mem⟩

theorem State.Inv.stands {s : State} (h : s.Inv) : CommandStands s.cmd s.bm := by
  have hc := h.command
  cases hcmd : s.cmd <;> rw [hcmd] at hc <;> exact hc

theorem State.Sound.inv {s : State} (h : s.Sound) (hc : CommandStands s.cmd s.bm) : s.Inv where
  bus := h.agrees.bus
  settled := h.agrees.settled
  command := by cases hcmd : s.cmd <;> rw [hcmd] at hc <;> exact hc
  disabled := h.agrees.disabled
  view := h.agrees.view
  mem := h.mem

/-- The command in progress and what it stands on are all that matters beside the bus. -/
theorem State.Inv.of_same {s t : State} (h : s.Inv) (hbm : t.bm = s.bm) (htrace : t.trace = s.trace)
    (hmem : Memory.wf t.mem = true) (hcmd : t.cmd = s.cmd) : t.Inv :=
  State.Sound.inv ⟨by rw [hbm, htrace]; exact h.sound.agrees, hmem⟩ (by rw [hbm, hcmd]; exact h.stands)

theorem BusMaster.atRest_of_quiet {b : BusMaster} (h : b.inflight = .none) : b.AtRest := by
  simp [BusMaster.AtRest, h]

theorem BusMaster.Agrees.atRest_of_dataRead {b : BusMaster} {v : BusView} (h : b.Agrees v)
    (hphase : b.phase = .dataRead) : b.AtRest := by
  refine ⟨fun hin => ?_, fun _ hin => ?_⟩
  · cases hphase.symm.trans (h.bus.addrAddress hin)
  · cases hphase.symm.trans (h.bus.dataDataWrite hin)

/-! ## How a numbered step ends -/

namespace State.Sound

variable {s t : State}

theorem inv_goTo (h : s.Sound) {c : Command} (hc : CommandStands (some c) s.bm) : (goTo c s).Inv :=
  State.Sound.inv (s := goTo c s) ⟨h.agrees, h.mem⟩ hc

theorem inv_complete (h : s.Sound) (v : Word) (hrest : s.bm.AtRest) : (complete v s).Inv :=
  State.Sound.inv (s := complete v s) ⟨h.agrees, h.mem⟩ hrest

theorem busSendData {b : Byte} (h : s.Sound) (hsend : busSendData b s = .next t) : t.Sound := by
  obtain ⟨⟨hphase, hwif⟩, rfl⟩ := busSendData_eq_next hsend
  exact ⟨by rw [busView_append]; exact h.agrees.sendByte hphase hwif b, h.mem⟩

theorem busAckAndReceive (h : s.Sound) (hack : busAckAndReceive s = .next t) : t.Sound := by
  obtain ⟨⟨hphase, hrif⟩, rfl⟩ := busAckAndReceive_eq_next hack
  exact ⟨by rw [busView_append]; exact h.agrees.acknowledge hphase hrif, h.mem⟩

theorem busNak (h : s.Sound) (hnak : busNak s = .next t) : t.Sound := by
  obtain ⟨⟨hphase, hrif⟩, rfl⟩ := busNak_eq_next hnak
  exact ⟨by rw [busView_append]; exact h.agrees.nak hphase hrif, h.mem⟩

theorem busAddrPhase (h : s.Sound) (hon : s.bm.en = true ∧ s.bm.pact = false) (hin : s.bm.inflight = .none)
    (hrif : s.bm.rif = false) (ab : Byte) : (busAddrPhase ab s).Sound := by
  obtain ⟨hen, hpact⟩ := hon
  exact ⟨by rw [busAddrPhase_trace, busView_append]; exact h.agrees.addressPhase hen hpact hin hrif ab, h.mem⟩

end State.Sound

theorem State.Inv.waitStep {s : State} (h : s.Inv) {c : Bool} {go : Command}
    (hgo : c = true → CommandStands (some go) s.bm) : (waitStep c go s).Inv := by
  cases c
  · exact h
  · exact h.sound.inv_goTo (hgo rfl)

/-! ## The commands of one atomic step -/

theorem stepBmInit_inv {hz ns : Word} {s : State} (h : s.Inv) (hc : (Command.bmInit hz ns).Holds s.bm) :
    (complete noResult (initBusMaster hz ns s)).Inv := by
  obtain ⟨-, -, hidle⟩ := hc
  have hs : (initBusMaster hz ns s).Sound := ⟨h.sound.agrees.enable hidle _, h.mem⟩
  exact hs.inv_complete _ (BusMaster.atRest_of_quiet rfl)

theorem stepStop_inv {s : State} (h : s.Inv) (hon : s.bm.en = true ∧ s.bm.pact = false)
    (hc : Command.stop.Holds s.bm) : (complete noResult (busStop s)).Inv := by
  obtain ⟨hphase, hin, hrif⟩ := hc
  have hs : (busStop s).Sound :=
    ⟨by rw [busStop_trace, busView_append]; exact h.sound.agrees.stop hon.1 hon.2 hphase hin hrif, h.mem⟩
  exact hs.inv_complete _ (BusMaster.atRest_of_quiet rfl)

theorem stepWriteAsync_inv {ptr len : Word} {s : State} (h : s.Inv)
    (hc : (Command.writeAsync ptr len).Holds s.bm) : (complete noResult (armPump ptr len s)).Inv := by
  obtain ⟨hphase, -, hin, -⟩ := hc
  have hs : (armPump ptr len s).Sound := ⟨h.sound.agrees.armPump hphase _ _, h.mem⟩
  exact hs.inv_complete _ (BusMaster.atRest_of_quiet hin)

theorem startTimebase_sound {s : State} (h : s.Sound) : (startTimebase s).Sound := ⟨h.agrees, h.mem⟩

/-! ## The address phase -/

/-- Step 1 of START and RESTART (41_bus_address.md R142, R143) leaves an address phase in flight. -/
theorem issueAddress_inv {s : State} (h : s.Inv) (hon : s.bm.en = true ∧ s.bm.pact = false)
    (hquiet : s.bm.inflight = .none ∧ s.bm.rif = false) (a : BusAddress) (n : Byte) {c : Command}
    (hc : ∀ b : BusMaster, b.phase = .address → b.inflight = .addr → c.Holds b) :
    (goTo c (issueAddress a n s)).Inv := by
  have hs : State.Sound { s with bm := { s.bm with rdcnt := if n = 0#8 then s.bm.rdcnt else n } } :=
    ⟨h.sound.agrees.setCount _, h.mem⟩
  exact (hs.busAddrPhase hon hquiet.1 hquiet.2 _).inv_goTo ⟨fun _ => hon, hc _ rfl rfl⟩

/-- Step 2 of START and RESTART: an address phase that is done is no longer in flight. -/
theorem addressWait_inv {s : State} (h : s.Inv) {a : BusAddress} {n : Byte}
    (hc : (Command.start a n .wait).Holds s.bm) {go : Command}
    (hgo : (Command.start a n .form).Holds s.bm → CommandStands (some go) s.bm) :
    (waitStep s.bm.addressDone go s).Inv := by
  obtain ⟨hphase, -, -, hacked⟩ := hc
  refine h.waitStep fun hdone => hgo ⟨hphase, ?_, hdone, hacked⟩
  exact h.sound.agrees.inflight_of_condition (by simpa [BusMaster.addressDone] using hdone)

theorem finishAddress_inv {s : State} (h : s.Inv) (hin : s.bm.inflight = .none) : (finishAddress s).Inv :=
  h.sound.inv_complete _ (BusMaster.atRest_of_quiet hin)

theorem stepStart_inv {a : BusAddress} {n : Byte} {at_ : AddrStep} {s t : State} (h : s.Inv)
    (hon : s.bm.en = true ∧ s.bm.pact = false) (hc : (Command.start a n at_).Holds s.bm)
    (hstep : stepStart a n at_ s = .next t) : t.Inv := by
  cases at_ <;> cases hstep
  case issue => exact issueAddress_inv h hon hc a n fun b hp hi => by simp [Command.Holds, hp, hi]
  case wait => exact addressWait_inv h hc fun hform => ⟨fun _ => hon, hform⟩
  case form => exact finishAddress_inv h hc.2.1

theorem stepRestart_inv {a : BusAddress} {n : Byte} {at_ : AddrStep} {s t : State} (h : s.Inv)
    (hon : s.bm.en = true ∧ s.bm.pact = false) (hc : (Command.restart a n at_).Holds s.bm)
    (hstep : stepRestart a n at_ s = .next t) : t.Inv := by
  cases at_ <;> cases hstep
  case issue => exact issueAddress_inv h hon hc a n fun b hp hi => by simp [Command.Holds, hp, hi]
  case wait => exact addressWait_inv (a := a) (n := n) h hc fun hform => ⟨fun _ => hon, hform⟩
  case form => exact finishAddress_inv h hc.2.1

theorem stepScan_inv {a : BusAddress} {at_ : ScanStep} {s t : State} (h : s.Inv)
    (hon : s.bm.en = true ∧ s.bm.pact = false) (hc : (Command.scan a at_).Holds s.bm)
    (hstep : stepScan a at_ s = .next t) : t.Inv := by
  have hs := h.sound
  cases at_ <;> simp only [stepScan] at hstep
  case init =>
    cases hstep
    exact hs.inv_goTo ⟨fun _ => hon, hc⟩
  case probe =>
    cases hstep
    obtain ⟨hin, hrif⟩ := hc
    exact (hs.busAddrPhase hon hin hrif _).inv_goTo
      (by simp [CommandStands, Command.Holds, hon, Laws.directionOfByte_addressByte])
  case wait =>
    cases hstep
    obtain ⟨hdir, hidle, hread, -, hacked⟩ := hc
    refine h.waitStep fun hdone => ⟨fun _ => hon, hdir, hidle, hread, ?_, hacked⟩
    exact hs.agrees.inflight_of_condition (by simpa [BusMaster.addressDone] using hdone)
  case test =>
    obtain ⟨-, hidle, hread, hin, hacked⟩ := hc
    split at hstep <;> cases hstep
    case isTrue => exact hs.inv_complete _ (BusMaster.atRest_of_quiet hin)
    case isFalse hno =>
      exact hs.inv_goTo ⟨fun _ => hon, by_contra fun hphase => hno (hacked hphase), hin⟩
  case next =>
    obtain ⟨hphase, hin⟩ := hc
    split at hstep <;> cases hstep
    case isTrue => exact hs.inv_complete _ (BusMaster.atRest_of_quiet hin)
    case isFalse =>
      exact hs.inv_goTo ⟨fun _ => hon, hin, hs.agrees.rif_of_phase_ne (by simp [hphase])⟩

/-! ## Writing bytes -/

theorem choosePolling_sound {s : State} (h : s.Sound) (hphase : s.bm.phase = .dataWrite) (hpact : s.bm.pact = false) :
    (choosePolling s).Sound :=
  ⟨h.agrees.choosePolling hphase hpact, h.mem⟩

theorem stepWrite_inv {b : Byte} {at_ : WriteStep} {s t : State} (h : s.Inv)
    (hon : s.bm.en = true ∧ s.bm.pact = false) (hc : (Command.write b at_).Holds s.bm)
    (hstep : stepWrite b at_ s = .next t) : t.Inv := by
  have hs := h.sound
  cases at_ <;> simp only [stepWrite] at hstep
  case mode =>
    cases hstep
    obtain ⟨hphase, -, hin⟩ := hc
    exact (choosePolling_sound hs hphase hon.2).inv_goTo ⟨fun _ => hon, hphase, rfl, hin⟩
  case wait =>
    cases hstep
    exact h.waitStep fun _ => ⟨fun _ => hon, hc⟩
  case send =>
    obtain ⟨hphase, htx, -⟩ := hc
    have hsent : State.Sound t := State.Sound.busSendData (s := goTo _ s) ⟨hs.agrees, hs.mem⟩ hstep
    obtain ⟨-, rfl⟩ := busSendData_eq_next hstep
    exact hsent.inv ⟨fun _ => hon, hphase, htx⟩
  case waitAck =>
    cases hstep
    obtain ⟨hphase, htx⟩ := hc
    exact h.waitStep fun hwif => ⟨fun _ => hon, hphase, htx, hs.agrees.inflight_of_condition (.inl hwif)⟩
  case form =>
    cases hstep
    obtain ⟨-, -, hin⟩ := hc
    exact hs.inv_complete _ (BusMaster.atRest_of_quiet hin)

theorem stepWriteBytes_inv {ptr len i : Word} {at_ : WriteBytesStep} {s t : State} (h : s.Inv)
    (hon : s.bm.en = true ∧ s.bm.pact = false) (hc : (Command.writeBytes ptr len i at_).Holds s.bm)
    (hstep : stepWriteBytes ptr len i at_ s = .next t) : t.Inv := by
  have hs := h.sound
  cases at_ <;> simp only [stepWriteBytes] at hstep
  case init =>
    cases hstep
    obtain ⟨hphase, htx, hin, hfits⟩ := hc
    exact hs.inv_goTo ⟨fun _ => hon, hphase, htx, hin, hfits, BitVec.le_def.2 (Nat.zero_le _)⟩
  case test =>
    obtain ⟨hphase, htx, hin, hfits, hle⟩ := hc
    split at hstep <;> cases hstep
    case isTrue => exact hs.inv_complete _ (BusMaster.atRest_of_quiet hin)
    case isFalse hne =>
      exact hs.inv_goTo ⟨fun _ => hon, hphase, htx, hin, hfits, by bv_omega⟩
  case mode =>
    cases hstep
    obtain ⟨hphase, -, hrest⟩ := hc
    exact (choosePolling_sound hs hphase hon.2).inv_goTo ⟨fun _ => hon, hphase, rfl, hrest⟩
  case wait =>
    cases hstep
    exact h.waitStep fun _ => ⟨fun _ => hon, hc⟩
  case send =>
    obtain ⟨hphase, htx, -, hrest⟩ := hc
    have hsent : State.Sound t := State.Sound.busSendData (s := goTo _ s) ⟨hs.agrees, hs.mem⟩ hstep
    obtain ⟨-, rfl⟩ := busSendData_eq_next hstep
    exact hsent.inv ⟨fun _ => hon, hphase, htx, hrest⟩
  case waitAck =>
    cases hstep
    obtain ⟨hphase, htx, hrest⟩ := hc
    exact h.waitStep fun hwif => ⟨fun _ => hon, hphase, htx, hs.agrees.inflight_of_condition (.inl hwif), hrest⟩
  case check =>
    split at hstep <;> cases hstep
    case isTrue =>
      obtain ⟨-, -, hin, -⟩ := hc
      exact hs.inv_complete _ (BusMaster.atRest_of_quiet hin)
    case isFalse => exact hs.inv_goTo ⟨fun _ => hon, hc⟩
  case next =>
    cases hstep
    obtain ⟨hphase, htx, hin, hfits, hlt⟩ := hc
    exact hs.inv_goTo ⟨fun _ => hon, hphase, by simp [htx], hin, hfits, by bv_omega⟩

/-! ## Reading bytes -/

theorem stepRead_inv {at_ : ReadStep} {s t : State} (h : s.Inv)
    (hon : s.bm.en = true ∧ s.bm.pact = false) (hc : (Command.read at_).Holds s.bm)
    (hstep : stepRead at_ s = .next t) : t.Inv := by
  have hs := h.sound
  cases at_ <;> simp only [stepRead] at hstep
  case wait =>
    cases hstep
    exact h.waitStep fun hrif => ⟨fun _ => hon, hc, hrif⟩
  case count =>
    cases hstep
    have hcount : (consumeCount s).Sound := ⟨hs.agrees.setCount _, hs.mem⟩
    exact hcount.inv_goTo ⟨fun _ => hon, hc⟩
  case take =>
    cases hstep
    exact hs.inv_goTo ⟨fun _ => hon, hc⟩
  case ack v =>
    obtain ⟨hphase, -⟩ := hc
    have hgo : (goTo (.read (.form v)) s).Sound := ⟨hs.agrees, hs.mem⟩
    rw [acknowledgeByte_eq] at hstep
    split at hstep
    case isTrue =>
      have hsent := hgo.busNak hstep
      obtain ⟨-, rfl⟩ := busNak_eq_next hstep
      exact hsent.inv ⟨fun _ => hon, hphase⟩
    case isFalse =>
      have hsent := hgo.busAckAndReceive hstep
      obtain ⟨-, rfl⟩ := busAckAndReceive_eq_next hstep
      exact hsent.inv ⟨fun _ => hon, hphase⟩
  case form v =>
    cases hstep
    exact hs.inv_complete _ (hs.agrees.atRest_of_dataRead hc)

theorem stepReadLast_inv {at_ : ReadLastStep} {s t : State} (h : s.Inv)
    (hon : s.bm.en = true ∧ s.bm.pact = false) (hc : (Command.readLast at_).Holds s.bm)
    (hstep : stepReadLast at_ s = .next t) : t.Inv := by
  have hs := h.sound
  cases at_ <;> simp only [stepReadLast] at hstep
  case zero =>
    cases hstep
    have hzero : State.Sound { s with bm := { s.bm with rdcnt := 0#8 } } := ⟨hs.agrees.setCount _, hs.mem⟩
    exact hzero.inv_goTo ⟨fun _ => hon, hc, rfl⟩
  case wait =>
    cases hstep
    obtain ⟨hphase, hcount⟩ := hc
    exact h.waitStep fun hrif => ⟨fun _ => hon, hphase, hrif, hcount⟩
  case count =>
    cases hstep
    obtain ⟨hphase, hrif, hcount⟩ := hc
    have hsound : (consumeCount s).Sound := ⟨hs.agrees.setCount _, hs.mem⟩
    exact hsound.inv_goTo ⟨fun _ => hon, hphase, hrif, by simp [countDown, hcount]⟩
  case take =>
    cases hstep
    exact hs.inv_goTo ⟨fun _ => hon, hc⟩
  case nak v =>
    obtain ⟨hphase, -, hcount⟩ := hc
    have hsent : State.Sound t := State.Sound.busNak (s := goTo _ s) ⟨hs.agrees, hs.mem⟩ hstep
    obtain ⟨-, rfl⟩ := busNak_eq_next hstep
    exact hsent.inv ⟨fun _ => hon, hphase, hcount, rfl, rfl⟩
  case form v =>
    cases hstep
    obtain ⟨hphase, -⟩ := hc
    exact hs.inv_complete _ (hs.agrees.atRest_of_dataRead hphase)

/-! ## The engine -/

theorem engineStep_inv {s t : State} (h : s.Inv) (hstep : engineStep s = .next t) : t.Inv := by
  cases hcmd : s.cmd with
  | none =>
    cases (engineStep_of_no_command hcmd).symm.trans hstep
    exact h
  | some c =>
    have hstands := h.stands
    rw [hcmd] at hstands
    obtain ⟨hon, hc⟩ := hstands
    rw [engineStep, hcmd] at hstep
    cases c
    case bmInit => cases hstep; exact stepBmInit_inv h hc
    case stop => cases hstep; exact stepStop_inv h (hon rfl) hc
    case writeAsync => cases hstep; exact stepWriteAsync_inv h hc
    case tbInit | tbRestart => cases hstep; exact (startTimebase_sound h.sound).inv_complete _ hc
    case tbNow => cases hstep; exact h.sound.inv_complete _ hc
    case start => exact stepStart_inv h (hon rfl) hc hstep
    case restart => exact stepRestart_inv h (hon rfl) hc hstep
    case scan => exact stepScan_inv h (hon rfl) hc hstep
    case write => exact stepWrite_inv h (hon rfl) hc hstep
    case writeBytes => exact stepWriteBytes_inv h (hon rfl) hc hstep
    case read => exact stepRead_inv h (hon rfl) hc hstep
    case readLast => exact stepReadLast_inv h (hon rfl) hc hstep

theorem engineRun_inv {n : Nat} {s t : State} (h : s.Inv) (hrun : engineRun n s = .next t) : t.Inv :=
  engineRun_induct (P := State.Inv) engineStep_inv h hrun

end Sys2Proof.Machine
end

section
/-! PROOFS. The moves of the other agents and the step of the machine keep the invariant; and what follows from it: no
step faults (20_memory.md R69, R70), and the trace keeps the protocol of the bus on every run (41_bus_address.md R146,
42_bus_data.md R174). -/

namespace Sys2Proof.Machine

/-! ## Issuing a command -/

/-- Admission to an address phase or a stop: nothing is in flight and no byte is held. -/
theorem quiet_of_not_readOpen {b : BusMaster} {v : BusView} (h : b.Agrees v) (hrest : b.AtRest)
    (hpact : b.pact = false) (hopen : b.readOpen = false) : b.inflight = .none ∧ b.rif = false := by
  obtain ⟨haddr, hdata⟩ := hrest
  have hread : b.phase = .dataRead → b.rif = false ∧ b.inflight ≠ .recv := fun hphase => by
    simpa [BusMaster.readOpen, hphase] using hopen
  refine ⟨?_, ?_⟩
  · cases hin : b.inflight with
    | none => rfl
    | addr => exact absurd hin haddr
    | data => exact absurd hin (hdata hpact)
    | recv => exact absurd hin (hread (h.bus.recvDataRead hin)).2
  · by_contra hrif
    have hrif : b.rif = true := by simpa using hrif
    simp [(hread (h.bus.rifDataRead hrif)).1] at hrif

/-- In DataWrite without an asynchronous write nothing is in flight between commands. -/
theorem quiet_of_dataWrite {b : BusMaster} {v : BusView} (h : b.Agrees v) (hrest : b.AtRest)
    (hpact : b.pact = false) (hphase : b.phase = .dataWrite) : b.inflight = .none :=
  (quiet_of_not_readOpen h hrest hpact (readOpen_of_phase_ne (by simp [hphase]))).1

/-- Outside a transaction nothing is in flight. -/
theorem quiet_of_idle {b : BusMaster} {v : BusView} (h : b.Agrees v) (hidle : b.en = true → b.phase = .idle) :
    b.inflight = .none := by
  cases hen : b.en
  · exact (h.disabled hen).2.1
  · exact (h.settled.idleQuiet (hidle hen)).2

/-- What an admitted command needs stands at its first numbered step. -/
theorem commandOf_stands {i : Instr} {s : State} (h : s.Inv) (ha : admits i s = true) :
    CommandStands (some (commandOf i s)) s.bm := by
  have hrest := h.stands
  rw [admits_no_command ha] at hrest
  have hag := h.sound.agrees
  cases i
  case bmInit =>
    obtain ⟨⟨-, hpact⟩, hidle, -⟩ := (admitInit_eq_none s).1 ((admits_bmInit_iff s).1 ha)
    exact ⟨nofun, hpact, quiet_of_idle hag hidle, hidle⟩
  case scan =>
    obtain ⟨⟨⟨-, hpact⟩, hen⟩, hopen⟩ := (admitAddress_eq_none s).1 ((admits_scan_iff s).1 ha)
    exact ⟨fun _ => ⟨hen, hpact⟩, quiet_of_not_readOpen hag hrest hpact hopen⟩
  case start a n =>
    obtain ⟨⟨⟨-, hpact⟩, hen⟩, hopen⟩ := (admitAddress_eq_none s).1 ((admits_start_iff a n s).1 ha)
    exact ⟨fun _ => ⟨hen, hpact⟩, quiet_of_not_readOpen hag hrest hpact hopen⟩
  case restart a n =>
    obtain ⟨⟨⟨-, hpact⟩, hen⟩, hopen⟩ := (admitAddress_eq_none s).1 ((admits_restart_iff a n s).1 ha)
    exact ⟨fun _ => ⟨hen, hpact⟩, quiet_of_not_readOpen hag hrest hpact hopen⟩
  case stop =>
    obtain ⟨⟨⟨-, hpact⟩, hen⟩, hphase, hopen⟩ := (admitStop_eq_none s).1 ((admits_stop_iff s).1 ha)
    exact ⟨fun _ => ⟨hen, hpact⟩, hphase, quiet_of_not_readOpen hag hrest hpact hopen⟩
  case write b =>
    obtain ⟨⟨⟨-, hpact⟩, hen⟩, hphase, htx⟩ := (admitWrite_eq_none s).1 ((admits_write_iff b s).1 ha)
    exact ⟨fun _ => ⟨hen, hpact⟩, hphase, htx, quiet_of_dataWrite hag hrest hpact hphase⟩
  case writeBytes =>
    obtain ⟨hwrite, hfits⟩ := (admitWriteBytes_eq_none s).1 ((admits_writeBytes_iff s).1 ha)
    obtain ⟨⟨⟨-, hpact⟩, hen⟩, hphase, htx⟩ := (admitWrite_eq_none s).1 hwrite
    exact ⟨fun _ => ⟨hen, hpact⟩, hphase, htx, quiet_of_dataWrite hag hrest hpact hphase, hfits⟩
  case writeAsync =>
    obtain ⟨⟨⟨-, hpact⟩, hen⟩, hphase, htx, hfits⟩ := (admitAsync_eq_none s).1 ((admits_writeAsync_iff s).1 ha)
    exact ⟨fun _ => ⟨hen, hpact⟩, hphase, htx, quiet_of_dataWrite hag hrest hpact hphase, hfits⟩
  case read =>
    obtain ⟨⟨⟨-, hpact⟩, hen⟩, hphase⟩ := (admitRead_eq_none s).1 ((admits_read_iff s).1 ha)
    exact ⟨fun _ => ⟨hen, hpact⟩, hphase⟩
  case readLast =>
    obtain ⟨⟨⟨-, hpact⟩, hen⟩, hphase⟩ := (admitRead_eq_none s).1 ((admits_readLast_iff s).1 ha)
    exact ⟨fun _ => ⟨hen, hpact⟩, hphase⟩
  case tbInit | tbNow | tbRestart => exact ⟨nofun, hrest⟩

theorem exec_inv {i : Instr} {s t : State} (h : s.Inv) (hexec : exec i s = .next t) : t.Inv := by
  obtain ⟨ha, -⟩ := exec_eq_next hexec
  obtain ⟨n, hrun⟩ := exec_eq_run hexec
  exact engineRun_inv (h.sound.inv_goTo (commandOf_stands h ha)) hrun

/-! ## The environment -/

/-- A command in progress stands over a completed data byte: WRITE and WRITE_BYTES wait for it, and the timebase's
commands do not touch the bus. -/
theorem Command.Holds.dataAnswered {c : Command} {b : BusMaster} (hc : c.Holds b) (hin : b.inflight = .data)
    (hphase : b.phase = .dataWrite) (a : Ack) : c.Holds { b with rxack := a, inflight := .none, wif := true } := by
  cases c
  case bmInit | stop | writeAsync => simp [Command.Holds, hin] at hc
  case tbInit | tbNow | tbRestart => simp [Command.Holds, BusMaster.AtRest]
  case start a n at_ | restart a n at_ => cases at_ <;> simp [Command.Holds, hin] at hc
  case scan a at_ => cases at_ <;> simp [Command.Holds, hin] at hc
  case read at_ => cases at_ <;> simp [Command.Holds, hphase] at hc
  case readLast at_ => cases at_ <;> simp [Command.Holds, hphase] at hc
  case write x at_ =>
    cases at_
    case waitAck => exact hc
    all_goals simp [Command.Holds, hin] at hc
  case writeBytes ptr len i at_ =>
    cases at_
    case waitAck => exact hc
    all_goals simp [Command.Holds, hin] at hc

/-- A command in progress stands over a received byte: START, RESTART, READ and READ_LAST wait for it, and a READ that
is to form its result has asked for it. -/
theorem Command.Holds.received {c : Command} {b : BusMaster} (hc : c.Holds b) (hin : b.inflight = .recv)
    (hphase : b.phase = .dataRead) (hrif : b.rif = false) (x : Byte) :
    c.Holds { b with data := x, inflight := .none, rif := true } := by
  cases c
  case bmInit | stop | writeAsync => simp [Command.Holds, hin] at hc
  case tbInit | tbNow | tbRestart => simp [Command.Holds, BusMaster.AtRest]
  case start a n at_ | restart a n at_ =>
    cases at_
    case wait =>
      obtain ⟨hidle, -, -, hacked⟩ := hc
      exact ⟨hidle, by simp, by simp [BusMaster.addressDone], hacked⟩
    all_goals simp [Command.Holds, hin] at hc
  case scan a at_ => cases at_ <;> simp [Command.Holds, hin, hphase] at hc
  case write x at_ => cases at_ <;> simp [Command.Holds, hphase] at hc
  case writeBytes ptr len i at_ => cases at_ <;> simp [Command.Holds, hphase] at hc
  case read at_ =>
    cases at_
    case wait | form => exact hc
    all_goals simp [Command.Holds, hrif] at hc
  case readLast at_ =>
    cases at_
    case zero | wait => exact hc
    all_goals simp [Command.Holds, hrif, hin] at hc

/-- Only START, RESTART and SCAN have an address byte in flight, at their wait; they stand over every answer that ends
the address phase or goes on to a reception. -/
theorem Command.Holds.addressAnswered {c : Command} {b b' : BusMaster} (hc : c.Holds b) (hin : b.inflight = .addr)
    (hphase : b.phase = .address) (hdir : b'.dir = b.dir) (hidle : b'.phase ≠ .idle)
    (hread : b'.phase = .dataRead → b.dir = .read) (hdata : b'.inflight ≠ .data)
    (hdone : b'.inflight = .none → b'.addressDone = true) (hacked : b'.phase ≠ .address → b'.addressAcked = true) :
    c.Holds b' := by
  cases c
  case bmInit | stop | writeAsync => simp [Command.Holds, hin] at hc
  case tbInit | tbNow | tbRestart => exact absurd hin hc.1
  case start a n at_ | restart a n at_ =>
    cases at_
    case wait => exact ⟨hidle, hdata, hdone, hacked⟩
    all_goals simp [Command.Holds, hin] at hc
  case scan a at_ =>
    cases at_
    case wait =>
      obtain ⟨hwrite, -⟩ := hc
      exact ⟨hdir.trans hwrite, hidle, fun hp => absurd (hread hp) (by simp [hwrite]), hdata, hacked⟩
    all_goals simp [Command.Holds, hin] at hc
  case write x at_ => cases at_ <;> simp [Command.Holds, hphase] at hc
  case writeBytes ptr len i at_ => cases at_ <;> simp [Command.Holds, hphase] at hc
  case read at_ => cases at_ <;> simp [Command.Holds, hphase] at hc
  case readLast at_ => cases at_ <;> simp [Command.Holds, hphase] at hc

theorem envData_inv {s : State} (h : s.Inv) (a : Ack) : (envData a s).Inv := by
  rw [envData_eq]
  split
  case isFalse => exact h
  case isTrue hin =>
    have hag := h.sound.agrees
    refine State.Sound.inv ⟨by rw [busView_append]; exact hag.dataAnswered hin a, h.mem⟩ ?_
    have hc := h.stands
    cases hcmd : s.cmd <;> rw [hcmd] at hc
    · exact BusMaster.atRest_of_quiet rfl
    · exact ⟨hc.1, hc.2.dataAnswered hin (hag.bus.dataDataWrite hin) a⟩

theorem envRecv_inv {s : State} (h : s.Inv) (x : Byte) : (envRecv x s).Inv := by
  rw [envRecv_eq]
  split
  case isFalse => exact h
  case isTrue hin =>
    have hag := h.sound.agrees
    obtain ⟨-, hrif⟩ := hag.bus.inflightNoCondition (by simp [hin])
    refine State.Sound.inv ⟨by rw [busView_append]; exact hag.received hin x, h.mem⟩ ?_
    have hc := h.stands
    cases hcmd : s.cmd <;> rw [hcmd] at hc
    · exact BusMaster.atRest_of_quiet rfl
    · exact ⟨hc.1, hc.2.received hin (hag.bus.recvDataRead hin) hrif x⟩

/-- An answer to the address byte leaves the enable bit and the pump alone. -/
theorem State.Inv.stands_answered {s : State} (h : s.Inv) (hin : s.bm.inflight = .addr) {b' : BusMaster}
    (hen : b'.en = s.bm.en) (hpact : b'.pact = s.bm.pact) (hdir : b'.dir = s.bm.dir) (hidle : b'.phase ≠ .idle)
    (hread : b'.phase = .dataRead → s.bm.dir = .read) (hdata : b'.inflight ≠ .data)
    (hdone : b'.inflight = .none → b'.addressDone = true) (hacked : b'.phase ≠ .address → b'.addressAcked = true) :
    CommandStands s.cmd b' := by
  have hc := h.stands
  cases hcmd : s.cmd <;> rw [hcmd] at hc
  · exact absurd hin hc.1
  · obtain ⟨hon, hc⟩ := hc
    exact ⟨fun hbus => ⟨hen.trans (hon hbus).1, hpact.trans (hon hbus).2⟩,
      hc.addressAnswered hin (h.bus.addrAddress hin) hdir hidle hread hdata hdone hacked⟩

theorem addressFailed_inv {s : State} (h : s.Inv) (hin : s.bm.inflight = .addr) {r : Ack} {arb err : Bool}
    {es : List BusEvent} (hfail : (arb || err) = true ∨ r = .nak)
    (hes : ∀ d, es.foldl BusView.after (.addressed d) = if arb || err then .lost else .unanswered) :
    (addressFailed r arb err es s).Inv := by
  have hag := h.sound.agrees
  have hphase := hag.bus.addrAddress hin
  refine State.Sound.inv ⟨?_, h.mem⟩ (h.stands_answered hin rfl rfl rfl ?_ ?_ ?_ ?_ ?_)
  · rw [addressFailed_trace, busView_append, hag.view_addressed hin]
    exact hag.addressFailed hin hfail (hes _)
  all_goals simp [hphase, BusMaster.addressDone]

theorem addressLost_inv {s : State} (h : s.Inv) (hin : s.bm.inflight = .addr) {arb err : Bool}
    {es : List BusEvent} (hfail : (arb || err) = true) (hes : ∀ d, es.foldl BusView.after (.addressed d) = .lost) :
    (addressLost arb err es s).Inv :=
  addressFailed_inv (s := { s with draws := s.draws + 1 }) (h.of_same rfl rfl h.mem rfl) hin (.inl hfail)
    (by simpa [hfail] using hes)

theorem answerAddress_inv {s : State} (h : s.Inv) (hin : s.bm.inflight = .addr) (x : AddrAnswer) :
    (answerAddress x s).Inv := by
  have hag := h.sound.agrees
  cases x
  case ack =>
    obtain ⟨harb, herr⟩ := hag.not_lost_of_inflight (by simp [hin])
    cases hdir : s.bm.dir
    case write =>
      rw [answerAddress_ack_of_write hdir]
      refine State.Sound.inv ⟨?_, h.mem⟩ (h.stands_answered hin rfl rfl rfl ?_ ?_ ?_ ?_ ?_)
      · rw [busView_append]
        exact hag.addressAccepted_write hin hdir
      all_goals simp [BusMaster.addressDone, BusMaster.addressAcked, harb, herr]
    case read =>
      rw [answerAddress_ack_of_read hdir]
      refine State.Sound.inv ⟨?_, h.mem⟩ (h.stands_answered hin rfl rfl rfl ?_ ?_ ?_ ?_ ?_)
      · rw [busView_append]
        exact hag.addressAccepted_read hin hdir
      all_goals simp [BusMaster.addressAcked, harb, herr, hdir]
  case nak => exact addressFailed_inv h hin (.inr rfl) fun _ => rfl
  case arbLost | busErr | arbLostAndBusErr => exact addressLost_inv h hin rfl fun _ => rfl

theorem envStep_inv {e : EnvEvent} {s t : State} (h : s.Inv) (hstep : envStep e s = .next t) : t.Inv := by
  cases e
  case addr x =>
    rcases envAddr_eq_next hstep with ⟨hin, rfl⟩ | ⟨-, rfl⟩
    · exact answerAddress_inv h hin x
    · exact h
  case data a => cases hstep; exact envData_inv h a
  case recv x => cases hstep; exact envRecv_inv h x

/-! ## The pump -/

/-- While an asynchronous write is in progress the command in progress is one of the timebase's, if any (43_bus_pump.md
R193), and asks of the bus master only to be at rest. -/
theorem CommandStands.of_pumping {cmd : Option Command} {b b' : BusMaster} (hc : CommandStands cmd b)
    (hpact : b.pact = true) (hrest : b'.AtRest) : CommandStands cmd b' := by
  cases cmd with
  | none => exact hrest
  | some c =>
    obtain ⟨hon, hc⟩ := hc
    cases c
    case tbInit | tbNow | tbRestart => exact ⟨nofun, hrest⟩
    case bmInit => cases hpact.symm.trans hc.1
    all_goals cases hpact.symm.trans (hon rfl).2

/-- What `PUMP_ISR` can do in a state of the invariant: the byte is sent in DataWrite (20_memory.md R69). -/
theorem State.Inv.pumping {s : State} (h : s.Inv) (hen : pumpIrqEnabled s = true) :
    s.bm.wif = true ∧ s.bm.pact = true ∧ s.bm.phase = .dataWrite := by
  simp only [pumpIrqEnabled, Bool.and_eq_true] at hen
  obtain ⟨⟨hwif, hwie⟩, -⟩ := hen
  have hpact : s.bm.pact = true := h.settled.wieIffPact.symm.trans hwie
  exact ⟨hwif, hpact, (h.bus.pump hpact).1⟩

/-- The firing that sends a byte, where it may be sent. -/
theorem pumpSend_of_ready {s : State} (hphase : s.bm.phase = .dataWrite) (hwif : s.bm.wif = true) :
    pumpSend s = .next { s with
      trace := s.trace ++ [.tx (memRead s s.bm.cur)]
      bm := { s.bm with
        cur := s.bm.cur + 1#32, data := memRead s s.bm.cur, wif := false, inflight := .data } } :=
  busSendData_of_ready (s := { s with bm := { s.bm with cur := s.bm.cur + 1#32 } }) hphase hwif _

theorem pumpIsr_inv {s t : State} (h : s.Inv) (hstep : pumpIsr s = .next t) : t.Inv := by
  have hag := h.sound.agrees
  unfold pumpIsr at hstep
  split at hstep
  case isFalse =>
    cases hstep
    exact h
  case isTrue hen =>
    obtain ⟨hwif, hpact, -⟩ := h.pumping hen
    split at hstep
    case isTrue =>
      have hs : State.Sound { s with bm := { s.bm with cur := s.bm.cur + 1#32 } } := ⟨hag.setCursor _, h.mem⟩
      have hsent := hs.busSendData hstep
      obtain ⟨-, rfl⟩ := busSendData_eq_next hstep
      exact hsent.inv (h.stands.of_pumping hpact (by simp [BusMaster.AtRest, hpact]))
    case isFalse =>
      cases hstep
      have hin := hag.inflight_of_condition (.inl hwif)
      exact State.Sound.inv (s := pumpFinish s) ⟨hag.pumpFinish, h.mem⟩
        (h.stands.of_pumping hpact (BusMaster.atRest_of_quiet hin))

/-! ## The host, the timer and the reset -/

theorem State.Inv.of_due {s : State} (h : s.Inv) (ms : List Move) : State.Inv { s with schedule := ms } :=
  h.of_same rfl rfl h.mem rfl

theorem hostStep_inv {a : HostAction} {s t : State} (h : s.Inv) (hstep : hostStep a s = .next t) : t.Inv := by
  cases a
  case command w =>
    rw [hostStep, hostCommand] at hstep
    split at hstep
    next =>
      cases hstep
      exact h.of_same rfl rfl h.mem rfl
    next => exact exec_inv h hstep
  case readStatus =>
    cases hstep
    exact h.of_same rfl rfl h.mem rfl
  case storeByte a b =>
    obtain ⟨-, rfl⟩ := hostAccess_eq_next hstep
    exact h.of_same rfl rfl (hostStore_wf a b s h.mem) rfl
  all_goals
    obtain ⟨-, rfl⟩ := hostAccess_eq_next hstep
    exact h.of_same rfl rfl h.mem rfl

theorem powerOnReset_inv {s : State} (hmem : Memory.wf s.mem = true) : (powerOnReset s).Inv := by
  have hag : State.reset.bm.Agrees (busView []) := by
    refine ⟨by constructor <;> decide, ?_, by decide, by decide⟩
    constructor <;> decide
  exact State.Sound.inv (s := powerOnReset s) ⟨hag, hmem⟩ (BusMaster.atRest_of_quiet rfl)

/-- Settles O50: a power-on reset of the reset state is the reset state. -/
theorem resetMeetsTheInvariant : Obligations.ResetMeetsTheInvariant := by
  unfold Obligations.ResetMeetsTheInvariant
  exact powerOnReset_inv (s := State.reset) rfl

theorem perform_inv {m : Move} {s t : State} (h : s.Inv) (hstep : perform m s = .next t) : t.Inv := by
  cases m
  case host a => exact hostStep_inv h hstep
  case engine => exact engineStep_inv h hstep
  case env e => exact envStep_inv h hstep
  case pumpIrq => exact pumpIsr_inv h hstep
  case tick =>
    cases hstep
    rw [tbTick_frame]
    exact h.of_same rfl rfl h.mem rfl
  case timerIrq =>
    cases hstep
    rw [tbIsr_frame]
    exact h.of_same rfl rfl h.mem rfl
  case powerOn =>
    cases hstep
    exact powerOnReset_inv h.mem

theorem step_inv {s t : State} (h : s.Inv) (hstep : step s = .next t) : t.Inv := by
  cases hs : s.schedule with
  | nil =>
    rw [step_of_none_due hs] at hstep
    exact engineRun_inv h hstep
  | cons m ms =>
    rw [step_of_due hs] at hstep
    exact perform_inv (h.of_due ms) hstep

/-- Settles O49: a step is a move or a run of numbered steps, and each of them keeps the invariant. -/
theorem everyStepKeepsTheInvariant : Obligations.EveryStepKeepsTheInvariant := by
  unfold Obligations.EveryStepKeepsTheInvariant
  exact fun s t h hstep => step_inv h hstep

/-! ## The protocol of the trace -/

theorem State.Inv.traceLegal {s : State} (h : s.Inv) : traceLegal s.trace = true := by
  simpa [Machine.traceLegal] using h.sound.agrees.not_broken

/-- A run takes one step and goes on. -/
theorem core_run_succ_eq_next {M : Host.Core} {n : Nat} {s t : M.State} (h : M.run (n + 1) s = .next t) :
    ∃ u, M.step s = .next u ∧ M.run n u = .next t := by
  rw [Host.Core.run] at h
  split at h
  next u hu => exact ⟨u, hu, h⟩
  next => cases h
  next => cases h

theorem run_inv {n : Nat} {s t : State} (h : s.Inv) (hrun : Host.Core.run core n s = .next t) : t.Inv := by
  induction n generalizing s with
  | zero =>
    cases hrun
    exact h
  | succ n ih =>
    obtain ⟨u, hu, hrest⟩ := core_run_succ_eq_next hrun
    exact ih (step_inv h hu) hrest

/-- Settles O52: every state of a run meets the invariant, and a view that the bus master stands for is not broken. -/
theorem traceKeepsTheProtocol : Obligations.TraceKeepsTheProtocol := by
  unfold Obligations.TraceKeepsTheProtocol
  exact fun s t n h hrun => (run_inv h hrun).traceLegal

/-! ## No fault -/

/-- What stands at a numbered step includes what its bus primitive requires. -/
theorem State.Inv.ready {s : State} (h : s.Inv) : s.Ready := by
  intro c hcmd
  have hstands := h.stands
  rw [hcmd] at hstands
  obtain ⟨-, hc⟩ := hstands
  have hwif : s.bm.phase = .dataWrite → s.bm.inflight = .none → s.bm.wif = true := fun hphase hin =>
    (h.settled.writeReady (h.sound.agrees.enabled_of_data (.inl hphase)) hphase).resolve_left (by simp [hin])
  cases c
  case write b at_ =>
    cases at_
    case send => exact ⟨hc.1, fun _ => hwif hc.1 hc.2.2⟩
    all_goals exact ⟨hc.1, nofun⟩
  case writeBytes ptr len i at_ =>
    cases at_
    case send => exact ⟨hc.1, fun _ => hwif hc.1 hc.2.2.1⟩
    all_goals exact ⟨hc.1, nofun⟩
  case read at_ =>
    cases at_
    case form => trivial
    all_goals exact hc
  case readLast at_ =>
    cases at_
    case form => trivial
    case zero => exact hc
    case wait => exact hc.1
    all_goals exact ⟨hc.1, hc.2.1⟩
  all_goals trivial

theorem exec_ne_fault (i : Instr) (s : State) (f : Fault) : exec i s ≠ .fault f := by
  intro hf
  cases ha : admits i s
  · obtain ⟨r, hr⟩ := exec_refused_of_not_admits ha
    cases hf.symm.trans hr
  · obtain ⟨t, ht⟩ := exec_next_of_admits ha
    cases hf.symm.trans ht

theorem hostStep_ne_fault (a : HostAction) (s : State) (f : Fault) : hostStep a s ≠ .fault f := by
  cases a
  case command w =>
    rw [hostStep, hostCommand]
    split
    · nofun
    · exact exec_ne_fault _ s f
  case readStatus => nofun
  all_goals
    rw [hostStep, hostAccess]
    split <;> nofun

theorem envStep_ne_fault (e : EnvEvent) (s : State) (f : Fault) : envStep e s ≠ .fault f := by
  cases e
  case addr x =>
    rw [envStep, envAddr]
    split
    · nofun
    · split <;> nofun
  case data | recv => nofun

theorem pumpIsr_ne_fault {s : State} (h : s.Inv) (f : Fault) : pumpIsr s ≠ .fault f := by
  unfold pumpIsr
  split
  case isFalse => nofun
  case isTrue hen =>
    obtain ⟨hwif, -, hphase⟩ := h.pumping hen
    split
    · rw [pumpSend_of_ready hphase hwif]
      nofun
    · nofun

theorem perform_ne_fault {m : Move} {s : State} (h : s.Inv) (f : Fault) : perform m s ≠ .fault f := by
  cases m
  case host a => exact hostStep_ne_fault a s f
  case env e => exact envStep_ne_fault e s f
  case pumpIrq => exact pumpIsr_ne_fault h f
  case engine =>
    obtain ⟨t, ht, -⟩ := engineStep_proceeds h.ready
    rw [perform, ht]
    nofun
  case tick | timerIrq | powerOn => nofun

/-- Settles O51: what stands at a numbered step and at a firing of the pump is what the bus primitive requires, and
elsewhere the primitives test it. -/
theorem noStepFaults : Obligations.NoStepFaults := by
  unfold Obligations.NoStepFaults
  refine ⟨fun s f h => ?_, fun s b hreq => if_neg hreq, fun s hreq => ⟨if_neg hreq, if_neg hreq⟩⟩
  cases hs : s.schedule with
  | nil =>
    obtain ⟨t, ht, -⟩ := engineRun_proceeds longestStretch h.ready
    rw [step_of_none_due hs, ht]
    nofun
  | cons m ms =>
    rw [step_of_due hs]
    exact perform_ne_fault (h.of_due ms) f

end Sys2Proof.Machine
end

section
/-! PROOFS. The step of the machine and the issue of a command (20_memory.md R80, 30_encoding.md R104): what is due is
taken alone, and with nothing due the engine goes on to its next wait or its end. -/

namespace Sys2Proof.Machine

/-! ## A command word as a move -/

theorem hostCommand_of_decode {w : Word} {i : Instr} (h : decode w = .ok i) (s : State) :
    hostCommand w s = exec i s := by
  rw [hostCommand, h]

theorem step_of_command_due {s : State} {w : Word} {ms : List Move} {i : Instr}
    (hs : s.schedule = .host (.command w) :: ms) (hw : decode w = .ok i) :
    step s = exec i { s with schedule := ms } := by
  rw [step_of_due hs, perform, hostStep, hostCommand_of_decode hw]

theorem tableWord_toNat (w : Word) : tableWord 32 w.toNat = some w := by
  have hmod : w.toNat % 2 ^ 32 = w.toNat := Nat.mod_eq_of_lt w.isLt
  simp only [tableWord, hmod, if_pos w.isLt, BitVec.ofNat_toNat, BitVec.setWidth_eq]

/-- Settles O7: the host's write is a move like the others, and a word of 32 bits is placed as it is. -/
theorem stepRunsTheDecodedCommand : Obligations.StepRunsTheDecodedCommand := by
  unfold Obligations.StepRunsTheDecodedCommand
  refine ⟨fun s w ms i hs hw => step_of_command_due hs hw, fun s w i hw => ?_⟩
  rw [State.withFetchWord, tableWord_toNat]
  exact step_of_command_due rfl hw

/-- Settles O59: an admitted command is issued, and the engine's turn after it depends on the schedule. -/
theorem issuingTakesNoNumberedStep : Obligations.IssuingTakesNoNumberedStep := by
  unfold Obligations.IssuingTakesNoNumberedStep
  refine fun i s ha => ⟨fun hdue => ?due, fun hidle => ?idle, fun w m ms hs hw => ?word⟩
  case due =>
    obtain ⟨m, ms, hs⟩ := List.exists_cons_of_ne_nil hdue
    exact (exec_of_admits ha).trans (issue_of_due hs _)
  case idle =>
    rw [exec_of_admits ha, issue_of_none_due hidle, performAll_engines]
    rfl
  case word =>
    have ha' : admits i { s with schedule := m :: ms } = true := ha
    rw [step_of_command_due hs hw, exec_of_admits ha', issue_of_due rfl]
    rfl

/-! ## How far the engine goes -/

/-- How many numbered steps a command takes at most before it waits for the environment or is done. -/
def Command.stretch (c : Command) (b : BusMaster) : Nat :=
  match c with
  | .bmInit _ _ | .stop | .writeAsync _ _ | .tbInit | .tbNow | .tbRestart => 1
  | .start _ _ at_ | .restart _ _ at_ =>
    match at_ with
    | .issue => 1
    | .wait => if b.addressDone then 2 else 0
    | .form => 1
  | .scan _ at_ =>
    match at_ with
    | .init => 2
    | .probe => 1
    | .wait => if b.addressDone then 4 else 0
    | .test => 3
    | .next => 2
  | .write _ at_ =>
    match at_ with
    | .mode => 3
    | .wait => if b.wif then 2 else 0
    | .send => 1
    | .waitAck => if b.wif then 2 else 0
    | .form => 1
  | .writeBytes _ _ _ at_ =>
    match at_ with
    | .init => 5
    | .test => 4
    | .mode => 3
    | .wait => if b.wif then 2 else 0
    | .send => 1
    | .waitAck => if b.wif then 7 else 0
    | .check => 6
    | .next => 5
  | .read at_ =>
    match at_ with
    | .wait => if b.rif then 5 else 0
    | .count => 4
    | .take => 3
    | .ack _ => 2
    | .form _ => 1
  | .readLast at_ =>
    match at_ with
    | .zero => 6
    | .wait => if b.rif then 5 else 0
    | .count => 4
    | .take => 3
    | .nak _ => 2
    | .form _ => 1

/-- The stretch of the command in progress. -/
def State.stretch (s : State) : Nat := s.cmd.elim 0 (·.stretch s.bm)

@[simp] theorem stretch_goTo (c : Command) (s : State) : (goTo c s).stretch = c.stretch s.bm := rfl

@[simp] theorem stretch_complete (v : Word) (s : State) : (complete v s).stretch = 0 := rfl

theorem stretch_of_command {s : State} {c : Command} (h : s.cmd = some c) : s.stretch = c.stretch s.bm := by
  rw [State.stretch, h, Option.elim_some]

theorem stretch_le_longestStretch (s : State) : s.stretch ≤ longestStretch := by
  unfold longestStretch
  cases hcmd : s.cmd with
  | none => simp [State.stretch, hcmd]
  | some c =>
    rw [stretch_of_command hcmd]
    unfold Command.stretch
    repeat' split
    all_goals decide

/-- A command whose stretch is over waits. -/
theorem waiting_of_stretch_eq_zero {s : State} {c : Command} (hcmd : s.cmd = some c) (h : c.stretch s.bm = 0) :
    waiting s = true := by
  unfold waiting
  rw [hcmd]
  cases c
  case bmInit | stop | writeAsync | tbInit | tbNow | tbRestart => cases h
  case start a n at_ | restart a n at_ => cases at_ <;> simp_all [Command.stretch]
  case scan a at_ => cases at_ <;> simp_all [Command.stretch]
  case write b at_ => cases at_ <;> simp_all [Command.stretch]
  case writeBytes p l i at_ => cases at_ <;> simp_all [Command.stretch]
  case read at_ => cases at_ <;> simp_all [Command.stretch]
  case readLast at_ => cases at_ <;> simp_all [Command.stretch]

theorem stretch_eq_zero {s : State} (h : s.stretch = 0) : s.cmd = none ∨ waiting s = true := by
  cases hcmd : s.cmd with
  | none => exact .inl rfl
  | some c => exact .inr (waiting_of_stretch_eq_zero hcmd (stretch_of_command hcmd ▸ h))

/-- A command that waits stays where it stands (00_scope.md R9). -/
theorem engineStep_of_waiting {s : State} (h : waiting s = true) : engineStep s = .next s := by
  unfold waiting at h
  cases hcmd : s.cmd with
  | none => rw [hcmd] at h; cases h
  | some c =>
    have stays {cond : Bool} {go : Command} (hcond : (!cond) = true) :
        Host.Outcome.next (waitStep cond go s) = (.next s : Host.Outcome State Fault Refusal) :=
      congrArg _ (waitStep_of_false (by simpa using hcond) go s)
    rw [engineStep, hcmd]
    rw [hcmd] at h
    cases c
    case bmInit | stop | writeAsync | tbInit | tbNow | tbRestart => cases h
    case start a n at_ | restart a n at_ | scan a at_ | read at_ | readLast at_ =>
      cases at_
      case wait => exact stays h
      all_goals cases h
    case write b at_ | writeBytes p l i at_ =>
      cases at_
      case wait | waitAck => exact stays h
      all_goals cases h

/-- A wait that goes on has one step less before it; one that stays has none before it. -/
theorem stretch_waitStep {cond : Bool} {go c : Command} {s : State} (hcmd : s.cmd = some c) {n : Nat}
    (hc : c.stretch s.bm = if cond then n + 1 else 0) (hgo : cond = true → go.stretch s.bm ≤ n) :
    (waitStep cond go s).stretch ≤ c.stretch s.bm - 1 := by
  cases cond
  · exact (stretch_of_command hcmd).le.trans (by simp [hc])
  · simpa [waitStep, hc] using hgo rfl

theorem stretch_of_sent {b : Byte} {c : Command} {s t : State} (h : busSendData b (goTo c s) = .next t)
    (hc : ∀ bm : BusMaster, bm.wif = false → c.stretch bm = 0) : t.stretch = 0 := by
  obtain ⟨-, rfl⟩ := busSendData_eq_next h
  exact (stretch_of_command rfl).trans (hc _ rfl)

/-! Each numbered step shortens the stretch. -/

theorem stepStart_stretch {a : BusAddress} {n : Byte} {at_ : AddrStep} {s t : State}
    (hcmd : s.cmd = some (.start a n at_)) (h : stepStart a n at_ s = .next t) :
    t.stretch ≤ (Command.start a n at_).stretch s.bm - 1 := by
  cases at_ <;> cases h
  case issue => simp [Command.stretch, issueAddress, BusMaster.addressDone]
  case wait => exact stretch_waitStep hcmd rfl fun _ => le_rfl
  case form => exact Nat.zero_le _

theorem stepRestart_stretch {a : BusAddress} {n : Byte} {at_ : AddrStep} {s t : State}
    (hcmd : s.cmd = some (.restart a n at_)) (h : stepRestart a n at_ s = .next t) :
    t.stretch ≤ (Command.restart a n at_).stretch s.bm - 1 := by
  cases at_ <;> cases h
  case issue => simp [Command.stretch, issueAddress, BusMaster.addressDone]
  case wait => exact stretch_waitStep hcmd rfl fun _ => le_rfl
  case form => exact Nat.zero_le _

theorem stepScan_stretch {a : BusAddress} {at_ : ScanStep} {s t : State}
    (hcmd : s.cmd = some (.scan a at_)) (h : stepScan a at_ s = .next t) :
    t.stretch ≤ (Command.scan a at_).stretch s.bm - 1 := by
  cases at_ <;> simp only [stepScan] at h
  case init => cases h; exact le_rfl
  case probe => cases h; simp [Command.stretch, BusMaster.addressDone]
  case wait => cases h; exact stretch_waitStep hcmd rfl fun _ => le_rfl
  case test | next => split at h <;> cases h <;> simp [Command.stretch]

theorem stepWrite_stretch {b : Byte} {at_ : WriteStep} {s t : State}
    (hcmd : s.cmd = some (.write b at_)) (h : stepWrite b at_ s = .next t) :
    t.stretch ≤ (Command.write b at_).stretch s.bm - 1 := by
  cases at_ <;> simp only [stepWrite] at h
  case mode => cases h; simp only [stretch_goTo, Command.stretch]; split <;> decide
  case wait => cases h; exact stretch_waitStep hcmd rfl fun _ => le_rfl
  case send => exact (stretch_of_sent h fun bm hwif => by simp [Command.stretch, hwif]).le
  case waitAck => cases h; exact stretch_waitStep hcmd rfl fun _ => le_rfl
  case form => cases h; exact le_rfl

theorem stepWriteBytes_stretch {p l i : Word} {at_ : WriteBytesStep} {s t : State}
    (hcmd : s.cmd = some (.writeBytes p l i at_)) (h : stepWriteBytes p l i at_ s = .next t) :
    t.stretch ≤ (Command.writeBytes p l i at_).stretch s.bm - 1 := by
  cases at_ <;> simp only [stepWriteBytes] at h
  case init | next => cases h; exact le_rfl
  case test | check => split at h <;> cases h <;> simp [Command.stretch]
  case mode => cases h; simp only [stretch_goTo, Command.stretch]; split <;> decide
  case wait => cases h; exact stretch_waitStep hcmd rfl fun _ => le_rfl
  case send => exact (stretch_of_sent h fun bm hwif => by simp [Command.stretch, hwif]).le
  case waitAck => cases h; exact stretch_waitStep hcmd rfl fun _ => le_rfl

theorem stepRead_stretch {at_ : ReadStep} {s t : State} (hcmd : s.cmd = some (.read at_))
    (h : stepRead at_ s = .next t) : t.stretch ≤ (Command.read at_).stretch s.bm - 1 := by
  cases at_ <;> simp only [stepRead] at h
  case wait => cases h; exact stretch_waitStep hcmd rfl fun _ => le_rfl
  case count | take => cases h; exact le_rfl
  case ack v =>
    have hform : t.cmd = some (.read (.form v)) := by
      rw [acknowledgeByte_eq] at h
      split at h
      · exact busNak_cmd h
      · exact busAckAndReceive_cmd h
    exact (stretch_of_command hform).le
  case form => cases h; exact le_rfl

theorem stepReadLast_stretch {at_ : ReadLastStep} {s t : State} (hcmd : s.cmd = some (.readLast at_))
    (h : stepReadLast at_ s = .next t) : t.stretch ≤ (Command.readLast at_).stretch s.bm - 1 := by
  cases at_ <;> simp only [stepReadLast] at h
  case zero => cases h; simp only [stretch_goTo, Command.stretch]; split <;> decide
  case wait => cases h; exact stretch_waitStep hcmd rfl fun _ => le_rfl
  case count | take => cases h; exact le_rfl
  case nak v => exact (stretch_of_command (c := .readLast (.form v)) (busNak_cmd h)).le
  case form => cases h; exact le_rfl

theorem engineStep_stretch {s t : State} (h : engineStep s = .next t) : t.stretch ≤ s.stretch - 1 := by
  cases hcmd : s.cmd with
  | none =>
    cases (engineStep_of_no_command hcmd).symm.trans h
    simp [State.stretch, hcmd]
  | some c =>
    rw [stretch_of_command hcmd]
    rw [engineStep, hcmd] at h
    cases c
    case bmInit | stop | writeAsync | tbInit | tbNow | tbRestart => cases h; exact le_rfl
    case start => exact stepStart_stretch hcmd h
    case restart => exact stepRestart_stretch hcmd h
    case scan => exact stepScan_stretch hcmd h
    case write => exact stepWrite_stretch hcmd h
    case writeBytes => exact stepWriteBytes_stretch hcmd h
    case read => exact stepRead_stretch hcmd h
    case readLast => exact stepReadLast_stretch hcmd h

theorem engineRun_stretch {n : Nat} {s t : State} (h : engineRun n s = .next t) : t.stretch ≤ s.stretch - n := by
  induction n generalizing s with
  | zero => cases h; exact le_rfl
  | succ n ih =>
    obtain ⟨u, hu, hrun⟩ := andThen_eq_next h
    have hstep := engineStep_stretch hu
    have hrest := ih hrun
    omega

/-- Settles O8: a due move is taken alone, and `longestStretch` numbered steps are enough to end every stretch. -/
theorem stepTakesTheNextMove : Obligations.StepTakesTheNextMove := by
  unfold Obligations.StepTakesTheNextMove
  refine ⟨fun s m ms hs => step_of_due hs, fun s hs => ?run, fun s t hs h => ?stops⟩
  case run => rw [step_of_none_due hs, performAll_engines, longestStretch]
  case stops =>
    rw [step_of_none_due hs] at h
    have hshort := engineRun_stretch h
    have hbound := stretch_le_longestStretch s
    exact stretch_eq_zero (by omega)

end Sys2Proof.Machine
end

section
/-! PROOFS. Between commands and at their issue: the host's registers, refusals by name, the moves of the timer, reset
values; and the commands of one atomic step, what they do and what they leave alone. -/

namespace Sys2Proof.Machine

/-! ## The host and the reset -/

/-- Settles O10: the access is carried out without a command in progress, and is blocked with one. -/
theorem hostReachesItsRegistersBetweenCommands : Obligations.HostReachesItsRegistersBetweenCommands := by
  unfold Obligations.HostReachesItsRegistersBetweenCommands
  refine fun s v => ⟨fun hcmd => ?free, fun hcmd a ha => ?blocked⟩
  case free => simp [perform, hostStep, hostAccess, hcmd]
  case blocked =>
    obtain ⟨c, hc⟩ := Option.ne_none_iff_exists'.1 hcmd
    have hblocked (t : State) : hostAccess s t = .refused .hostBlocked := by rw [hostAccess, hc]
    simp only [List.mem_cons, List.not_mem_nil, or_false] at ha
    rcases ha with rfl | rfl | rfl | rfl | rfl <;> exact hblocked _

/-- Settles O11: a power-on reset of the reset state is the reset state. -/
theorem resetLeavesTheTableValues : Obligations.ResetLeavesTheTableValues := by
  unfold Obligations.ResetLeavesTheTableValues
  exact powerOnReset_atResetValues State.reset

/-! ## Refusals by name -/

theorem admitAny_of_busy {s : State} (h : s.cmd ≠ none) : admitAny s = some .reentrant := by
  obtain ⟨c, hc⟩ := Option.ne_none_iff_exists'.1 h
  rw [admitAny, hc]
  rfl

theorem exec_refused_of_busy (i : Instr) {s : State} (h : s.cmd ≠ none) : exec i s = .refused .reentrant := by
  have hany := admitAny_of_busy h
  cases hi : isTimebaseCommand i
  case false => exact exec_refused_of_admitBus hi (by rw [admitBus, hany, orElseRefuse_some])
  case true =>
    cases i
    case tbInit | tbRestart => simp only [exec, execTbInit, execTbRestart, hany, admitted_some]
    case tbNow => simp only [exec, execTbNow, admitNow, hany, orElseRefuse_some, admitted_some]
    all_goals cases hi

/-- Settles O16: a command in progress is the first reason that any admission tests. -/
theorem secondCommandIsRefused : Obligations.SecondCommandIsRefused := by
  unfold Obligations.SecondCommandIsRefused
  exact fun i s h => exec_refused_of_busy i h

@[simp] theorem orElseRefuse_none (b : Option Refusal) : orElseRefuse none b = b := rfl

@[simp] theorem refuseIf_true (r : Refusal) : refuseIf true r = some r := rfl

theorem rangeFits_eq_false {ptr len : Word} (h : ptr.toNat + len.toNat > 2 ^ 32) : rangeFits ptr len = false := by
  simpa [rangeFits] using h

/-- Settles O17: every reason before the operand's is excluded by the admission of the same command with a good
operand. -/
theorem operandConditionsRefuseByName : Obligations.OperandConditionsRefuseByName := by
  unfold Obligations.OperandConditionsRefuseByName
  refine ⟨fun s i hi ha hwraps => ?range, fun s ha hzero => ?clock, fun s hcmd hrun => ?timebase⟩
  case range =>
    have hfits := rangeFits_eq_false hwraps
    rcases hi with rfl | rfl
    · obtain ⟨hwrite, -⟩ := (admitWriteBytes_eq_none _).1 ((admits_writeBytes_iff _).1 ha)
      have hwrite : admitWrite s = none := hwrite
      simp [exec, execWriteBytes, admitWriteBytes, hwrite, hfits]
    · obtain ⟨hen, hphase, htx, -⟩ := (admitAsync_eq_none _).1 ((admits_writeAsync_iff _).1 ha)
      have hen : admitEnabled s = none := (admitEnabled_eq_none s).2 hen
      have hphase : s.bm.phase = .dataWrite := hphase
      have htx : s.bm.txmode ≠ .polling := htx
      simp [exec, execWriteAsync, admitAsync, hen, hphase, htx, hfits, refuseIf]
  case clock =>
    obtain ⟨hbus, hidle, -⟩ := (admitInit_eq_none _).1 ((admits_bmInit_iff _).1 ha)
    have hbus : admitBus s = none := (admitBus_eq_none s).2 hbus
    have hidle : s.bm.en = true → s.bm.phase = .idle := hidle
    have hphase : refuseIf (s.bm.en && s.bm.phase != .idle) .wrongPhase = none := by simpa using hidle
    simp [exec, execBmInit, admitInit, hbus, hphase, hzero]
  case timebase => simp [exec, execTbNow, admitNow, (admitAny_eq_none s).2 hcmd, hrun]

/-- Settles O35: such an answer is a bus failure, and no address byte is in flight for it. -/
theorem busFailureElsewhereIsRefused : Obligations.BusFailureElsewhereIsRefused := by
  unfold Obligations.BusFailureElsewhereIsRefused
  intro s ms x hs hack hnak hin hphase
  have hfail : x.isBusFailure = true := by
    cases x
    case ack => exact absurd rfl hack
    case nak => exact absurd rfl hnak
    all_goals rfl
  rw [step_of_due hs]
  exact (if_neg hin).trans (if_pos ⟨hfail, hphase⟩)

/-! ## The timer -/

theorem timerIrqEnabled_iff (s : State) :
    timerIrqEnabled s = true ↔ s.tb.pend = true ∧ s.tb.ie = true ∧ s.ic.gie = true := by
  simp [timerIrqEnabled, and_assoc]

/-- Settles O20: each of the two moves by the condition that enables it. -/
theorem tickAndTimerHandler : Obligations.TickAndTimerHandler := by
  unfold Obligations.TickAndTimerHandler
  refine fun s ms => ⟨fun hs => ?tick, fun hs => ?irq⟩
  case tick =>
    rw [step_of_due hs, perform, tbTick]
    exact ⟨fun hrun => by simp [hrun], fun hrun => by simp [hrun]⟩
  case irq =>
    rw [← timerIrqEnabled_iff, step_of_due hs, perform]
    exact ⟨fun hen => congrArg _ (if_pos hen), fun hen => congrArg _ (if_neg hen)⟩

/-! ## Runs of numbered steps that end at a wait or at the end of the command -/

theorem engineRun_of_stuck {w : State} (hw : engineStep w = .next w) (n : Nat) : engineRun n w = .next w := by
  induction n with
  | zero => rfl
  | succ n ih => rw [engineRun_succ hw, ih]

/-- Once the engine stands it stays there. -/
theorem engineRun_past {k n : Nat} {s w : State} (hkn : k ≤ n) (hrun : engineRun k s = .next w)
    (hw : engineStep w = .next w) : engineRun n s = .next w := by
  obtain ⟨m, rfl⟩ := Nat.exists_eq_add_of_le hkn
  rw [engineRun_add, hrun, andThen_next, engineRun_of_stuck hw]

/-- A longer run than the one that reaches a standstill passes through no further state. -/
theorem engineRun_within {k n : Nat} {s w u : State} (hrun : engineRun k s = .next w)
    (hw : engineStep w = .next w) (h : engineRun n s = .next u) : ∃ j ≤ k, engineRun j s = .next u := by
  by_cases hkn : k ≤ n
  · rw [engineRun_past hkn hrun hw] at h
    exact ⟨k, le_rfl, hrun.trans h⟩
  · exact ⟨n, by omega, h⟩

/-- A command goes on to the state in which the engine first stands, by itself where nothing else is due and by the
engine's moves always (log 3, 4). -/
theorem exec_reaches {i : Instr} {s w : State} {k : Nat} (ha : admits i s = true) (hk : k ≤ longestStretch)
    (hrun : engineRun k (goTo (commandOf i s) s) = .next w) (hw : engineStep w = .next w) :
    (s.schedule = [] → exec i s = .next w) ∧
      ∃ t, exec i s = .next t ∧ performAll (List.replicate k .engine) t = .next w := by
  have hidle (hs : s.schedule = []) : exec i s = .next w := by
    rw [exec_of_admits ha, issue_of_none_due hs, engineRun_past hk hrun hw]
  refine ⟨hidle, ?_⟩
  cases hs : s.schedule with
  | nil => exact ⟨w, hidle hs, by rw [performAll_engines, engineRun_of_stuck hw]⟩
  | cons m ms =>
    exact ⟨_, (exec_of_admits ha).trans (issue_of_due hs _), by rw [performAll_engines, hrun]⟩

/-- A command of one atomic step is at its issue or has completed. -/
theorem issued_or_done {i : Instr} {s t u done : State} {n : Nat} (hexec : exec i s = .next t)
    (hrun : performAll (List.replicate n .engine) t = .next u)
    (hstep : engineStep (goTo (commandOf i s) s) = .next done) (hdone : done.cmd = none) :
    u = goTo (commandOf i s) s ∨ u = done := by
  obtain ⟨m, hm⟩ := exec_then_engines hexec hrun
  obtain ⟨j, hj, hu⟩ := engineRun_within (engineRun_succ hstep 0) (engineStep_of_no_command hdone) hm
  cases j with
  | zero => cases hu; exact .inl rfl
  | succ j =>
    obtain rfl : j = 0 := by omega
    cases (engineRun_succ hstep 0).symm.trans hu
    exact .inr rfl

/-! ## The commands of one atomic step -/

theorem timerPeriod_bounds :
    Config.coreHz / (Config.tbDiv * 1000) ≤ timerPeriod + 1 ∧
      timerPeriod ≤ Config.coreHz / (Config.tbDiv * 1000) + 1 := by
  simp only [timerPeriod]
  generalize Config.coreHz / (Config.tbDiv * 1000) = quotient
  constructor <;> split <;> split <;> omega

/-- Settles O18: both commands complete in the one step that starts the timebase, which leaves the command in progress,
none, as it was. -/
theorem timebaseStartsAtZero : Obligations.TimebaseStartsAtZero := by
  unfold Obligations.TimebaseStartsAtZero
  refine ⟨?_, timerPeriod_bounds⟩
  rintro s done i hi hcmd rfl
  have hany : admitAny s = none := (admitAny_eq_none s).2 hcmd
  rcases hi with rfl | rfl
  · refine exec_completes_in_one_step ((admits_tbInit_iff s).2 hany) ?_ hcmd
    rw [hcmd]
    rfl
  · refine exec_completes_in_one_step ((admits_tbRestart_iff s).2 hany) ?_ hcmd
    rw [hcmd]
    rfl

/-- Settles O19: TB_NOW completes in the one step that writes the count to `IF.RESULT`. -/
theorem nowReturnsTheCount : Obligations.NowReturnsTheCount := by
  unfold Obligations.NowReturnsTheCount
  rintro s done hcmd hrun rfl
  refine exec_completes_in_one_step ((admits_tbNow_iff s).2 ((admitNow_eq_none s).2 ⟨hcmd, hrun⟩)) ?_ hcmd
  rw [hcmd]
  rfl

/-- Settles O24: BM_INIT completes in its one step. -/
theorem bmInitSetsBusIdle : Obligations.BmInitSetsBusIdle := by
  unfold Obligations.BmInitSetsBusIdle
  rintro s done ha rfl
  have hcmd := admits_no_command ha
  refine exec_completes_in_one_step ha ?_ hcmd
  rw [hcmd]
  rfl

/-- The end of a range as `BM.END` holds it (43_bus_pump.md R190). -/
theorem range_end (ptr len : Word) : BitVec.ofNat 32 (ptr.toNat + len.toNat) = ptr + len := by
  rw [BitVec.ofNat_add, BitVec.ofNat_toNat, BitVec.ofNat_toNat, BitVec.setWidth_eq, BitVec.setWidth_eq]

/-- What WRITE_ASYNC leaves (43_bus_pump.md R190). -/
theorem engineStep_writeAsync {s : State} (hcmd : s.cmd = none) :
    engineStep (goTo (commandOf .writeAsync s) s) = .next { s with
      bm := { s.bm with
        cur := s.ifc.arg0, fin := BitVec.ofNat 32 (s.ifc.arg0.toNat + s.ifc.arg1.toNat), pdone := false,
        pact := true, txmode := .pump, wie := true }
      ifc := { s.ifc with result := 0#32 } } := by
  rw [hcmd, range_end]
  rfl

/-- Settles O45: WRITE_ASYNC completes in its one step. -/
theorem writeAsyncArmsThePump : Obligations.WriteAsyncArmsThePump := by
  unfold Obligations.WriteAsyncArmsThePump
  rintro s done ha rfl
  have hcmd := admits_no_command ha
  exact exec_completes_in_one_step ha (engineStep_writeAsync hcmd) hcmd

/-! ## Their frames -/

/-- Settles O23: each of the three is at its issue or has completed, and writes no bus state in either. -/
theorem timebaseCommandsLeaveTheBusAlone : Obligations.TimebaseCommandsLeaveTheBusAlone := by
  unfold Obligations.TimebaseCommandsLeaveTheBusAlone
  intro s t u i n hexec hrun
  have hstart : i = .tbInit ∨ i = .tbRestart → u = { s with
      tb := u.tb, ic := u.ic, ifc := { s.ifc with result := u.ifc.result }, draws := u.draws, cmd := u.cmd } := by
    rintro (rfl | rfl)
    all_goals rcases issued_or_done hexec hrun rfl rfl with rfl | rfl <;> rfl
  have hnow : i = .tbNow → u = { s with ifc := { s.ifc with result := u.ifc.result }, cmd := u.cmd } := by
    rintro rfl
    rcases issued_or_done hexec hrun rfl rfl with rfl | rfl <;> rfl
  refine ⟨hstart, hnow, fun hi a => memRead_congr ?_ a⟩
  rcases hi with hi | hi | hi
  · rw [hstart (.inl hi)]
  · rw [hstart (.inr hi)]
  · rw [hnow hi]

/-- Settles O25: BM_INIT is at its issue or has completed. -/
theorem bmInitFrame : Obligations.BmInitFrame := by
  unfold Obligations.BmInitFrame
  intro s t u n hexec hrun
  rcases issued_or_done hexec hrun rfl rfl with rfl | rfl <;> exact ⟨rfl, memRead_congr rfl⟩

/-- Settles O32: STOP is at its issue or has completed, and appends to the trace at most. -/
theorem stopFrame : Obligations.StopFrame := by
  unfold Obligations.StopFrame
  intro s t u n hexec hrun
  rcases issued_or_done hexec hrun rfl rfl with rfl | rfl
  · exact ⟨rfl, List.prefix_rfl, memRead_congr rfl⟩
  · exact ⟨rfl, List.prefix_append _ _, memRead_congr rfl⟩

/-- Settles O46: WRITE_ASYNC is at its issue or has completed. -/
theorem writeAsyncFrame : Obligations.WriteAsyncFrame := by
  unfold Obligations.WriteAsyncFrame
  intro s t u n hexec hrun
  rcases issued_or_done hexec hrun rfl rfl with rfl | rfl <;> exact ⟨rfl, memRead_congr rfl⟩

end Sys2Proof.Machine
end

section
/-! PROOFS. What the whole machine writes and when: host memory (20_memory.md R61), the timebase and `IC.GIE`
(10_state.md R40 to R45), the Indefinite Stall (60_exceptions.md R208), and the two handlers beside the bus
(20_memory.md R80, 60_exceptions.md R214, R216). -/

namespace Sys2Proof.Machine

/-! ## Host memory -/

theorem CommandFrame.mem_eq {s t : State} (h : CommandFrame s t) : t.mem = s.mem := by
  obtain ⟨hframe, -⟩ := h
  rw [hframe]

theorem hostStep_mem {a : HostAction} (ha : ∀ x b, a ≠ .storeByte x b) {s t : State} (h : hostStep a s = .next t) :
    t.mem = s.mem := by
  cases a
  case command w =>
    rw [hostStep, hostCommand] at h
    split at h
    next => cases h; rfl
    next => exact (exec_commandFrame h).mem_eq
  case readStatus => cases h; rfl
  case storeByte x b => exact absurd rfl (ha x b)
  all_goals
    obtain ⟨-, rfl⟩ := hostAccess_eq_next h
    rfl

/-- The host's store aside, no move writes host memory. -/
theorem perform_mem {m : Move} (hm : ∀ a b, m ≠ .host (.storeByte a b)) {s t : State} (h : perform m s = .next t) :
    t.mem = s.mem := by
  cases m
  case host a => exact hostStep_mem (fun x b hx => hm x b (congrArg _ hx)) h
  case engine => exact (engineStep_commandFrame h).mem_eq
  case env e => rw [envStep_frame h]
  case tick => cases h; rw [tbTick_frame]
  case timerIrq => cases h; rw [tbIsr_frame]
  case pumpIrq => rw [pumpIsr_frame h]
  case powerOn => cases h; rfl

theorem step_mem {s t : State} (hs : ∀ a b ms, s.schedule ≠ .host (.storeByte a b) :: ms) (h : step s = .next t) :
    t.mem = s.mem := by
  cases hdue : s.schedule with
  | nil =>
    rw [step_of_none_due hdue] at h
    exact (engineRun_commandFrame h).mem_eq
  | cons m ms =>
    rw [step_of_due hdue] at h
    exact (perform_mem (fun a b hm => hs a b ms (hm ▸ hdue)) h :)

theorem storeByte_eq_next {a : Word} {b : Byte} {s t : State} (h : perform (.host (.storeByte a b)) s = .next t) :
    t = hostStore a b s :=
  (hostAccess_eq_next h).2

/-- Settles O58: `step_mem` for every other move, and the laws of `hostStore` for the host's store. -/
theorem onlyTheHostWritesMemory : Obligations.OnlyTheHostWritesMemory := by
  unfold Obligations.OnlyTheHostWritesMemory
  refine ⟨fun s t h hs => step_mem hs h, fun s t a b hwf h => ?store, fun s t h hwf => ?wf⟩
  case store =>
    obtain rfl := storeByte_eq_next h
    exact ⟨by rw [memRead_hostStore a a b s hwf, if_pos rfl],
      fun c hc => by rw [memRead_hostStore a c b s hwf, if_neg hc]⟩
  case wf =>
    by_cases hs : ∃ a b ms, s.schedule = .host (.storeByte a b) :: ms
    · obtain ⟨a, b, ms, hs⟩ := hs
      rw [step_of_due hs] at h
      obtain rfl := storeByte_eq_next h
      exact hostStore_wf a b _ hwf
    · push Not at hs
      rw [step_mem hs h]
      exact hwf

/-! ## The writers of the timebase -/

/-- The timebase as the step of TB_INIT and TB_RESTART leaves it (40_timebase.md R120, R122). -/
def StartedAnew (s t : State) : Prop :=
  t.tb.count = 0#32 ∧ t.tb.run = true ∧ t.tb.ie = true ∧ t.ic.gie = true ∧ t.tb.period = timerPeriod ∧
    (t.tb.pend = false ∨ t.tb.pend = s.tb.pend)

theorem startTimebase_startedAnew (s : State) : StartedAnew s (complete noResult (startTimebase s)) := by
  refine ⟨rfl, rfl, rfl, rfl, rfl, ?_⟩
  cases hbit : (draw s).1 <;> simp [hbit]

theorem engineStep_of_start {s : State} (h : s.cmd = some .tbInit ∨ s.cmd = some .tbRestart) :
    engineStep s = .next (complete noResult (startTimebase s)) := by
  rcases h with h | h <;> rw [engineStep, h] <;> rfl

theorem leavesTimebase_of_not_start {s : State} (h : ¬(s.cmd = some .tbInit ∨ s.cmd = some .tbRestart)) :
    s.LeavesTimebase := by
  push Not at h
  obtain ⟨hinit, hrestart⟩ := h
  cases hcmd : s.cmd with
  | none => exact leavesTimebase_of_no_command hcmd
  | some c =>
    rw [hcmd] at hinit hrestart
    refine ⟨c.mnemonic, hcmd ▸ .some rfl, ?_, ?_⟩
    all_goals cases c <;> simp [Command.mnemonic] at hinit hrestart ⊢

/-- A run of numbered steps leaves the timebase and `IC.GIE` alone, or starts them anew. -/
theorem engineRun_tb {n : Nat} {s t : State} (h : engineRun n s = .next t) :
    (t.tb = s.tb ∧ t.ic = s.ic) ∨
      ((s.cmd = some .tbInit ∨ s.cmd = some .tbRestart) ∧ StartedAnew s t) := by
  by_cases hstart : s.cmd = some .tbInit ∨ s.cmd = some .tbRestart
  · cases n with
    | zero => cases h; exact .inl ⟨rfl, rfl⟩
    | succ n =>
      rw [engineRun_succ (engineStep_of_start hstart), engineRun_of_no_command rfl] at h
      cases h
      exact .inr ⟨hstart, startTimebase_startedAnew s⟩
  · obtain ⟨-, htb, hic⟩ := engineRun_timebaseFrame (leavesTimebase_of_not_start hstart) h
    exact .inl ⟨htb, hic⟩

theorem startsTimebase_iff (i : Instr) : startsTimebase i = true ↔ i = .tbInit ∨ i = .tbRestart := by
  cases i <;> simp [startsTimebase]

/-- A command starts the timebase anew only where nothing is due after it (log 3). -/
theorem exec_tb {i : Instr} {s t : State} (h : exec i s = .next t) :
    (t.tb = s.tb ∧ t.ic = s.ic) ∨ ((s.schedule = [] ∧ (i = .tbInit ∨ i = .tbRestart)) ∧ StartedAnew s t) := by
  cases hi : startsTimebase i
  case false =>
    obtain ⟨-, htb, hic⟩ := exec_timebaseFrame hi h
    exact .inl ⟨htb, hic⟩
  case true =>
    obtain ⟨-, hissue⟩ := exec_eq_next h
    cases hs : s.schedule with
    | cons m ms =>
      rw [issue_of_due hs] at hissue
      cases hissue
      exact .inl ⟨rfl, rfl⟩
    | nil =>
      rw [issue_of_none_due hs] at hissue
      rcases engineRun_tb hissue with hsame | ⟨-, hanew⟩
      · exact .inl hsame
      · exact .inr ⟨⟨rfl, (startsTimebase_iff i).1 hi⟩, hanew⟩

theorem hostStep_tb {a : HostAction} {s t : State} (h : hostStep a s = .next t) :
    (t.tb = s.tb ∧ t.ic = s.ic) ∨
      ((s.schedule = [] ∧ ∃ w, a = .command w ∧ (decode w = .ok .tbInit ∨ decode w = .ok .tbRestart)) ∧
        StartedAnew s t) := by
  cases a
  case command w =>
    rw [hostStep, hostCommand] at h
    split at h
    next => cases h; exact .inl ⟨rfl, rfl⟩
    next i hdec =>
      rcases exec_tb h with hsame | ⟨⟨hs, hi⟩, hanew⟩
      · exact .inl hsame
      · exact .inr ⟨⟨hs, w, rfl, by rcases hi with rfl | rfl <;> simp [hdec]⟩, hanew⟩
  case readStatus => cases h; exact .inl ⟨rfl, rfl⟩
  all_goals
    obtain ⟨-, rfl⟩ := hostAccess_eq_next h
    exact .inl ⟨rfl, rfl⟩

/-- Settles O22: the engine by `engineRun_tb`, the host by `hostStep_tb`, the timer's own moves by their conditions, and
the rest by their frames. -/
theorem timebaseAndInterruptEnableWriters : Obligations.TimebaseAndInterruptEnableWriters := by
  unfold Obligations.TimebaseAndInterruptEnableWriters
  refine ⟨⟨rfl, rfl, rfl⟩, fun s hcmd => ?starts, fun s t h => ?step, fun s hrun => ?tick, fun s hgie => ?handlers⟩
  case starts => exact ⟨_, engineStep_of_start hcmd, rfl, startTimebase_startedAnew s⟩
  case tick => simp [perform, tbTick, hrun]
  case handlers => simp [perform, tbIsr, pumpIsr, timerIrqEnabled, pumpIrqEnabled, hgie]
  case step =>
    cases hs : s.schedule with
    | nil =>
      rw [step_of_none_due hs] at h
      rcases engineRun_tb h with hsame | ⟨hcmd, hanew⟩
      · exact .inl hsame
      · exact .inr (.inr (.inr (.inl ⟨hcmd.imp_right .inl, hanew⟩)))
    | cons m ms =>
      rw [step_of_due hs] at h
      cases m
      case host a =>
        rcases hostStep_tb h with hsame | ⟨⟨hnil, w, rfl, hw⟩, hanew⟩
        · exact .inl hsame
        · obtain rfl : ms = [] := hnil
          exact .inr (.inr (.inr (.inl ⟨.inr (.inr ⟨w, rfl, hw⟩), hanew⟩)))
      case engine =>
        rcases engineRun_tb ((engineRun_succ h 0).trans rfl) with hsame | ⟨hcmd, hanew⟩
        · exact .inl hsame
        · exact .inr (.inr (.inr (.inl ⟨hcmd.imp_right .inl, hanew⟩)))
      case env e =>
        rw [envStep_frame h]
        exact .inl ⟨rfl, rfl⟩
      case pumpIrq =>
        rw [pumpIsr_frame h]
        exact .inl ⟨rfl, rfl⟩
      case tick =>
        cases h
        unfold tbTick
        split
        case isTrue hrun => exact .inr (.inl ⟨ms, rfl, hrun, rfl, rfl⟩)
        case isFalse => exact .inl ⟨rfl, rfl⟩
      case timerIrq =>
        cases h
        unfold tbIsr
        split
        case isTrue hen => exact .inr (.inr (.inl ⟨ms, rfl, hen, rfl, rfl⟩))
        case isFalse => exact .inl ⟨rfl, rfl⟩
      case powerOn => exact .inr (.inr (.inr (.inr ⟨ms, rfl⟩)))

/-! ## The Indefinite Stall -/

/-- All that changes while nothing answers: the count, by the firings, the pending tick and the host's last read. -/
def StallFrame (firings : Nat) (s t : State) : Prop :=
  t = { s with
    tb := { s.tb with count := s.tb.count + BitVec.ofNat 32 firings, pend := t.tb.pend }, readout := t.readout }

theorem StallFrame.trans {n m : Nat} {s t u : State} (h : StallFrame n s t) (k : StallFrame m t u) :
    StallFrame (n + m) s u := by
  unfold StallFrame at *
  rw [k, h]
  simp [BitVec.ofNat_add, BitVec.add_assoc]

theorem StallFrame.waiting {n : Nat} {s t : State} (h : StallFrame n s t) (hwait : waiting s = true) :
    waiting t = true := by
  rw [h]
  exact hwait

theorem perform_stall {m : Move} (hm : answersNothing m = true) {s t : State} (hwait : waiting s = true)
    (h : perform m s = .next t) : StallFrame (firing m s) s t := by
  cases m
  case engine =>
    cases (engineStep_of_waiting hwait).symm.trans h
    simp [StallFrame, firing]
  case tick =>
    cases h
    unfold tbTick
    split <;> simp [StallFrame, firing]
  case timerIrq =>
    cases h
    unfold tbIsr
    split <;> simp [StallFrame, firing, *]
  case host a =>
    obtain rfl : a = .readStatus := by simpa [answersNothing, hostAnswersNothing] using hm
    cases h
    simp [StallFrame, firing]
  case env | pumpIrq | powerOn => cases hm

theorem performAll_stall {ms : List Move} (hms : ms.all answersNothing = true) {s t : State}
    (hwait : waiting s = true) (h : performAll ms s = .next t) : StallFrame (timerFirings ms s) s t := by
  induction ms generalizing s with
  | nil =>
    cases h
    simp [StallFrame, timerFirings]
  | cons m ms ih =>
    obtain ⟨hm, hrest⟩ := Bool.and_eq_true_iff.1 (List.all_cons ▸ hms)
    obtain ⟨u, hu, hrun⟩ := andThen_eq_next h
    have hfirst := perform_stall hm hwait hu
    rw [timerFirings_cons hu]
    exact hfirst.trans (ih hrest (hfirst.waiting hwait) hrun)

theorem cmd_ne_none_of_waiting {s : State} (h : waiting s = true) : s.cmd ≠ none := by
  intro hcmd
  unfold waiting at h
  rw [hcmd] at h
  cases h

/-- Settles O54: each move of a stall has `StallFrame`, and a command that waits is in progress. -/
theorem stallChangesNothing : Obligations.StallChangesNothing := by
  unfold Obligations.StallChangesNothing
  intro s t ms hwait hms h
  have hframe := performAll_stall hms hwait h
  have hwait' := hframe.waiting hwait
  exact ⟨hframe, hwait', fun i => exec_refused_of_busy i (cmd_ne_none_of_waiting hwait')⟩

/-! ## The handlers beside the bus -/

/-- Settles O57: the timer's handler clears its request, and the pump's clears the condition or its own enable. -/
theorem handlersDoNotReenter : Obligations.HandlersDoNotReenter := by
  unfold Obligations.HandlersDoNotReenter
  refine fun s t => ⟨fun hen h => ?timer, fun hen h => ?pump⟩
  case timer =>
    cases h
    rw [tbIsr, if_pos hen]
    simp [timerIrqEnabled]
  case pump =>
    rw [perform, pumpIsr, if_pos hen] at h
    split at h
    · obtain ⟨-, rfl⟩ := busSendData_eq_next h
      simp [pumpIrqEnabled]
    · cases h
      simp [pumpIrqEnabled]

/-- The same state with another timebase. -/
def State.withTimebase (s : State) (tb : Timebase) : State := { s with tb := tb }

/-- An operation that neither reads nor writes the timebase, and does not write `IC.GIE`, from `s`. -/
def IgnoresTimebase (f : State → Host.Outcome State Fault Refusal) (s : State) : Prop :=
  (∀ tb, f (s.withTimebase tb) = andThen (f s) fun t => .next (t.withTimebase tb)) ∧
    ∀ t, f s = .next t → t.tb = s.tb ∧ t.ic = s.ic

/-- A tick and a firing of the timer's handler write the timebase from the timebase and `IC.GIE`. -/
theorem timer_move_eq {m : Move} (hm : m = .tick ∨ m = .timerIrq) :
    ∃ f : Timebase → InterruptControl → Timebase, ∀ s, perform m s = .next (s.withTimebase (f s.tb s.ic)) := by
  rcases hm with rfl | rfl
  · refine ⟨fun tb _ => if tb.run then { tb with pend := true } else tb, fun s => ?_⟩
    rw [perform, tbTick]
    split <;> simp [State.withTimebase, *]
  · refine ⟨fun tb ic => if tb.pend && tb.ie && ic.gie then { tb with count := tb.count + 1#32, pend := false } else tb,
      fun s => ?_⟩
    rw [perform, tbIsr, timerIrqEnabled]
    split <;> simp [State.withTimebase, *]

theorem performAll_pair (m k : Move) (s : State) : performAll [m, k] s = andThen (perform m s) (perform k) := by
  rw [performAll]
  congr
  funext t
  rw [performAll]
  cases perform k t <;> rfl

theorem timer_commutes {m k : Move} (hm : m = .tick ∨ m = .timerIrq) {s : State}
    (hk : IgnoresTimebase (perform k) s) : performAll [m, k] s = performAll [k, m] s := by
  obtain ⟨f, hf⟩ := timer_move_eq hm
  obtain ⟨hread, hwrite⟩ := hk
  rw [performAll_pair, performAll_pair, hf, andThen_next, hread]
  cases hnext : perform k s with
  | next t =>
    obtain ⟨htb, hic⟩ := hwrite t hnext
    simp only [andThen_next, hf, htb, hic]
  | fault r => rfl
  | refused r => rfl

theorem ite_eq_andThen {c : Prop} [Decidable c] {f : State → Host.Outcome State Fault Refusal}
    {o p o' p' : Host.Outcome State Fault Refusal} (ho : o' = andThen o f) (hp : p' = andThen p f) :
    (if c then o' else p') = andThen (if c then o else p) f := by
  split
  · exact ho
  · exact hp

theorem busSendData_withTimebase (b : Byte) (s : State) (tb : Timebase) :
    busSendData b (s.withTimebase tb) = andThen (busSendData b s) fun t => .next (t.withTimebase tb) :=
  ite_eq_andThen rfl rfl

theorem busAckAndReceive_withTimebase (s : State) (tb : Timebase) :
    busAckAndReceive (s.withTimebase tb) = andThen (busAckAndReceive s) fun t => .next (t.withTimebase tb) :=
  ite_eq_andThen rfl rfl

theorem busNak_withTimebase (s : State) (tb : Timebase) :
    busNak (s.withTimebase tb) = andThen (busNak s) fun t => .next (t.withTimebase tb) :=
  ite_eq_andThen rfl rfl

theorem pumpIsr_of_sending {s : State} (hen : pumpIrqEnabled s = true) (hcur : s.bm.cur ≠ s.bm.fin) :
    pumpIsr s = pumpSend s :=
  (if_pos hen).trans (if_pos hcur)

theorem pumpIsr_of_exhausted {s : State} (hen : pumpIrqEnabled s = true) (hcur : s.bm.cur = s.bm.fin) :
    pumpIsr s = .next (pumpFinish s) :=
  (if_pos hen).trans (if_neg (not_not.2 hcur))

theorem pumpIsr_of_disabled {s : State} (hen : ¬pumpIrqEnabled s = true) : pumpIsr s = .next s := if_neg hen

theorem pumpIsr_ignoresTimebase (s : State) : IgnoresTimebase (perform .pumpIrq) s := by
  refine ⟨fun tb => ?_, fun t h => ?_⟩
  · simp only [perform]
    by_cases hen : pumpIrqEnabled s = true
    · by_cases hcur : s.bm.cur = s.bm.fin
      · rw [pumpIsr_of_exhausted hen hcur, pumpIsr_of_exhausted (s := s.withTimebase tb) hen hcur]
        rfl
      · rw [pumpIsr_of_sending hen hcur, pumpIsr_of_sending (s := s.withTimebase tb) hen hcur]
        exact busSendData_withTimebase (memRead s s.bm.cur) { s with bm := { s.bm with cur := s.bm.cur + 1#32 } } tb
    · rw [pumpIsr_of_disabled hen, pumpIsr_of_disabled (s := s.withTimebase tb) hen]
      rfl
  · rw [pumpIsr_frame h]
    exact ⟨rfl, rfl⟩

theorem envStep_ignoresTimebase (e : EnvEvent) (s : State) : IgnoresTimebase (perform (.env e)) s := by
  refine ⟨fun tb => ?_, fun t h => ?_⟩
  · cases e
    case addr x =>
      refine ite_eq_andThen ?_ (ite_eq_andThen rfl rfl)
      cases x
      case ack =>
        cases hdir : s.bm.dir
        case write =>
          rw [answerAddress_ack_of_write hdir, answerAddress_ack_of_write (s := s.withTimebase tb) hdir]
          rfl
        case read =>
          rw [answerAddress_ack_of_read hdir, answerAddress_ack_of_read (s := s.withTimebase tb) hdir]
          rfl
      all_goals rfl
    case data a =>
      simp only [perform, envStep, envData_eq]
      by_cases hin : s.bm.inflight = .data
      · rw [if_pos hin, if_pos (show (s.withTimebase tb).bm.inflight = .data from hin)]; rfl
      · rw [if_neg hin, if_neg (show (s.withTimebase tb).bm.inflight ≠ .data from hin)]; rfl
    case recv b =>
      simp only [perform, envStep, envRecv_eq]
      by_cases hin : s.bm.inflight = .recv
      · rw [if_pos hin, if_pos (show (s.withTimebase tb).bm.inflight = .recv from hin)]; rfl
      · rw [if_neg hin, if_neg (show (s.withTimebase tb).bm.inflight ≠ .recv from hin)]; rfl
  · rw [envStep_frame h]
    exact ⟨rfl, rfl⟩

/-- Settles O55: the pump's handler ignores the timebase, which is all that the timer's handler writes. -/
theorem handlersCommute : Obligations.HandlersCommute := by
  unfold Obligations.HandlersCommute
  exact fun s => timer_commutes (.inr rfl) (pumpIsr_ignoresTimebase s)

/-- A numbered step neither reads nor writes the timebase, but for the three commands that are about it. -/
theorem engineStep_withTimebase {s : State} (hinit : s.cmd ≠ some .tbInit) (hnow : s.cmd ≠ some .tbNow)
    (hrestart : s.cmd ≠ some .tbRestart) (tb : Timebase) :
    engineStep (s.withTimebase tb) = andThen (engineStep s) fun t => .next (t.withTimebase tb) := by
  have hwait (c : Bool) (go : Command) : Host.Outcome.next (waitStep c go (s.withTimebase tb)) =
      andThen (.next (waitStep c go s)) fun t => .next (t.withTimebase tb) := by cases c <;> rfl
  cases hcmd : s.cmd with
  | none =>
    rw [engineStep_of_no_command hcmd, engineStep_of_no_command (s := s.withTimebase tb) hcmd]
    rfl
  | some c =>
    have hcmd' : (s.withTimebase tb).cmd = some c := hcmd
    rw [hcmd] at hinit hnow hrestart
    rw [engineStep, hcmd', engineStep, hcmd]
    cases c
    case tbInit => exact absurd rfl hinit
    case tbNow => exact absurd rfl hnow
    case tbRestart => exact absurd rfl hrestart
    case bmInit | stop | writeAsync => rfl
    case start a n at_ | restart a n at_ =>
      cases at_
      case wait => exact hwait _ _
      case issue | form => rfl
    case scan a at_ =>
      cases at_
      case wait => exact hwait _ _
      case init | probe => rfl
      case test | next => exact ite_eq_andThen rfl rfl
    case write b at_ =>
      cases at_
      case wait | waitAck => exact hwait _ _
      case send => exact busSendData_withTimebase _ (goTo _ s) tb
      case mode | form => rfl
    case writeBytes p l i at_ =>
      cases at_
      case wait | waitAck => exact hwait _ _
      case send => exact busSendData_withTimebase _ (goTo _ s) tb
      case init | mode | next => rfl
      case test | check => exact ite_eq_andThen rfl rfl
    case read at_ =>
      cases at_
      case wait => exact hwait _ _
      case count | take | form => rfl
      case ack v =>
        simp only [stepRead, acknowledgeByte_eq]
        exact ite_eq_andThen (busNak_withTimebase (goTo _ s) tb) (busAckAndReceive_withTimebase (goTo _ s) tb)
    case readLast at_ =>
      cases at_
      case wait => exact hwait _ _
      case nak v => exact busNak_withTimebase (goTo _ s) tb
      case zero | count | take | form => rfl

theorem engine_ignoresTimebase {s : State} (hinit : s.cmd ≠ some .tbInit) (hnow : s.cmd ≠ some .tbNow)
    (hrestart : s.cmd ≠ some .tbRestart) : IgnoresTimebase (perform .engine) s := by
  refine ⟨engineStep_withTimebase hinit hnow hrestart, fun t h => ?_⟩
  obtain ⟨-, hsame⟩ := engineStep_timebaseFrame (leavesTimebase_of_not_start (not_or.2 ⟨hinit, hrestart⟩)) h
  exact hsame

/-- Settles O56: the numbered steps of the bus commands, the answers and the pump's handler ignore the timebase. -/
theorem timerCommutesWithTheBus : Obligations.TimerCommutesWithTheBus := by
  unfold Obligations.TimerCommutesWithTheBus
  intro s m k hm hk
  refine timer_commutes hm ?_
  rcases hk with ⟨rfl, hcmd⟩ | ⟨e, rfl⟩ | rfl
  · exact engine_ignoresTimebase (hcmd .tbInit rfl) (hcmd .tbNow rfl) (hcmd .tbRestart rfl)
  · exact envStep_ignoresTimebase e s
  · exact pumpIsr_ignoresTimebase s

end Sys2Proof.Machine
end

section
/-! PROOFS. The byte pump (43_bus_pump.md R190 to R192), the read counter (42_bus_data.md R174) and the data phase
(41_bus_address.md R146). -/

namespace Sys2Proof.Machine

/-! ## One firing -/

theorem pumpIrqEnabled_iff (s : State) :
    pumpIrqEnabled s = true ↔ s.bm.wif = true ∧ s.bm.wie = true ∧ s.ic.gie = true := by
  simp [pumpIrqEnabled, and_assoc]

/-- Settles O47: the three cases of the handler; in a state of the invariant the byte can be sent. -/
theorem pumpFiringSendsOrFinishes : Obligations.PumpFiringSendsOrFinishes := by
  unfold Obligations.PumpFiringSendsOrFinishes
  intro s ms hs hinv
  rw [step_of_due hs, perform]
  refine ⟨fun ⟨hwif, hwie, hgie, hcur⟩ => ?sends, fun ⟨hwif, hwie, hgie, hcur⟩ => ?finishes, fun hdis => ?disabled⟩
  case sends =>
    have hen := (pumpIrqEnabled_iff s).2 ⟨hwif, hwie, hgie⟩
    obtain ⟨-, -, hphase⟩ := hinv.pumping hen
    exact (pumpIsr_of_sending (s := { s with schedule := ms }) hen hcur).trans (pumpSend_of_ready hphase hwif)
  case finishes =>
    exact pumpIsr_of_exhausted (s := { s with schedule := ms }) ((pumpIrqEnabled_iff s).2 ⟨hwif, hwie, hgie⟩) hcur
  case disabled =>
    exact pumpIsr_of_disabled (s := { s with schedule := ms }) fun hen => hdis ((pumpIrqEnabled_iff s).1 hen)

/-! ## The whole range -/

/-- An asynchronous write with the controller ready and `n` bytes to go. -/
structure Pumping (n : Nat) (s : State) : Prop where
  phase : s.bm.phase = .dataWrite
  wif : s.bm.wif = true
  wie : s.bm.wie = true
  gie : s.ic.gie = true
  pact : s.bm.pact = true
  pdone : s.bm.pdone = false
  left : s.bm.fin = s.bm.cur + BitVec.ofNat 32 n

theorem Pumping.enabled {n : Nat} {s : State} (h : Pumping n s) : pumpIrqEnabled s = true :=
  (pumpIrqEnabled_iff s).2 ⟨h.wif, h.wie, h.gie⟩

/-- The cursor is at the end of the range only when nothing is to go: a range has fewer than 2^32 bytes. -/
theorem Pumping.cur_ne_fin {n : Nat} {s : State} (h : Pumping (n + 1) s) (hn : n + 1 < 2 ^ 32) :
    s.bm.cur ≠ s.bm.fin := by
  rw [h.left]
  bv_omega

/-- The slave's answer to a data byte, as a move. -/
theorem perform_envData {s : State} (h : s.bm.inflight = .data) (a : Ack) :
    perform (.env (.data a)) s = .next { s with
      bm := { s.bm with rxack := a, inflight := .none, wif := true }, trace := s.trace ++ [.slave a] } := by
  rw [perform, envStep, envData_eq, if_pos h]

/-- A firing and the slave's answer to it, whatever it is, send the byte at the cursor. -/
theorem Pumping.fire {n : Nat} {s : State} (h : Pumping (n + 1) s) (hn : n + 1 < 2 ^ 32) (a : Ack) :
    ∃ t, performAll [.pumpIrq, .env (.data a)] s = .next t ∧ Pumping n t ∧ t.mem = s.mem ∧
      t.bm.cur = s.bm.cur + 1#32 ∧ t.trace = s.trace ++ [.tx (memRead s s.bm.cur), .slave a] := by
  have hsend : perform .pumpIrq s = .next _ :=
    (pumpIsr_of_sending h.enabled (h.cur_ne_fin hn)).trans (pumpSend_of_ready h.phase h.wif)
  refine ⟨_, (performAll_pair _ _ s).trans ((congrArg (andThen · _) hsend).trans (perform_envData rfl a)), ?_⟩
  refine ⟨⟨h.phase, rfl, h.wie, h.gie, h.pact, h.pdone, ?_⟩, rfl, rfl, by simp⟩
  rw [h.left]
  bv_omega

/-- What is sent depends on the memory alone. -/
theorem sentTrace_congr {s t : State} (h : t.mem = s.mem) (p : Word) (acks : List Ack) :
    sentTrace t p acks = sentTrace s p acks := by
  induction acks generalizing p with
  | nil => rfl
  | cons a acks ih => rw [sentTrace, sentTrace, memRead_congr h, ih]

/-- All bytes of the range go out in ascending order, with their answers. -/
theorem Pumping.fire_all {acks : List Ack} {s : State} (h : Pumping acks.length s) (hlen : acks.length < 2 ^ 32) :
    ∃ t, performAll (pumpMoves acks) s = .next t ∧ Pumping 0 t ∧
      t.trace = s.trace ++ sentTrace s s.bm.cur acks := by
  induction acks generalizing s with
  | nil => exact ⟨s, rfl, h, by simp [sentTrace]⟩
  | cons a acks ih =>
    obtain ⟨u, hu, hpump, hmem, hcur, htrace⟩ := h.fire hlen a
    obtain ⟨t, ht, hdone, htrace'⟩ := ih hpump (by simp at hlen; omega)
    refine ⟨t, ?_, hdone, ?_⟩
    · rw [pumpMoves, List.flatMap_cons, performAll_append, hu, andThen_next]
      exact ht
    · rw [htrace', htrace, hcur, sentTrace_congr hmem, sentTrace, List.append_assoc]
      rfl

/-- What WRITE_ASYNC leaves is an asynchronous write of the whole range (43_bus_pump.md R190). -/
theorem pumping_of_armed {s t : State} (ha : admits .writeAsync s = true) (hwif : s.bm.wif = true)
    (hgie : s.ic.gie = true) (h : engineStep (goTo (commandOf .writeAsync s) s) = .next t) :
    Pumping s.ifc.arg1.toNat t ∧ t.bm.cur = s.ifc.arg0 ∧ t.mem = s.mem ∧ t.trace = s.trace := by
  obtain ⟨-, hphase, -⟩ := (admitAsync_eq_none s).1 ((admits_writeAsync_iff s).1 ha)
  cases h
  refine ⟨⟨hphase, hwif, rfl, hgie, rfl, rfl, ?_⟩, rfl, rfl, rfl⟩
  rw [BitVec.ofNat_toNat, BitVec.setWidth_eq]
  rfl

/-- Settles O48: WRITE_ASYNC arms the pump for the whole range, each firing with its answer sends one byte, and the one
that finds nothing to go marks completion. -/
theorem pumpSendsTheWholeRange : Obligations.PumpSendsTheWholeRange := by
  unfold Obligations.PumpSendsTheWholeRange
  intro s acks ha hwif hgie hlen
  obtain ⟨armed, harmed⟩ : ∃ t, engineStep (goTo (commandOf .writeAsync s) s) = .next t := ⟨_, rfl⟩
  obtain ⟨hpump, hcur, hmem, htrace⟩ := pumping_of_armed ha hwif hgie harmed
  obtain ⟨-, t, hexec, hengine⟩ := exec_completes_in_one_step ha harmed (by cases harmed; rfl)
  rw [← hlen] at hpump
  obtain ⟨u, hu, hend, htrace'⟩ := hpump.fire_all (hlen ▸ s.ifc.arg1.isLt)
  have hsent : performAll (.engine :: pumpMoves acks) t = .next u := by
    rw [← List.singleton_append, performAll_append, hengine, andThen_next, hu]
  have hfin : u.bm.cur = u.bm.fin := by simpa using hend.left.symm
  have hfinish : performAll [.pumpIrq] u = .next (pumpFinish u) := by
    rw [performAll, perform, pumpIsr_of_exhausted hend.enabled hfin]
    rfl
  refine ⟨t, u, pumpFinish u, hexec, hsent, hend.pdone, hend.pact, ?_, rfl, rfl, rfl, hend.wif, hfin, hend.phase, ?_⟩
  · rw [performAll_append, hsent, andThen_next, hfinish]
  · rw [pumpFinish_trace, htrace', htrace, hcur, sentTrace_congr hmem]

/-! ## What a numbered step does to the bus master -/

/-- The updates of the bus master by a numbered step of a command. -/
inductive BusUpdate (s : State) : BusMaster → Prop
  | unchanged : BusUpdate s s.bm
  | count (n : Byte) (h : n ≤ s.bm.rdcnt) : BusUpdate s { s.bm with rdcnt := n }
  | polling : BusUpdate s { s.bm with txmode := .polling }
  | probe (ab : Byte) : BusUpdate s (busAddrPhase ab s).bm
  | start (a : BusAddress) (n : Byte) (h : s.cmd = some (.start a n .issue) ∨ s.cmd = some (.restart a n .issue)) :
    BusUpdate s (issueAddress a n s).bm
  | send (b : Byte) : BusUpdate s { s.bm with data := b, wif := false, inflight := .data }
  | acknowledge (a : Ack) (i : Inflight) : BusUpdate s { s.bm with ackact := a, rif := false, inflight := i }
  | stop : BusUpdate s (busStop s).bm
  | init (hz ns : Word) : BusUpdate s (initBusMaster hz ns s).bm
  | arm (ptr len : Word) : BusUpdate s (armPump ptr len s).bm

/-- A START or RESTART at its first numbered step. -/
def Command.atIssue : Command → Bool
  | .start _ _ .issue | .restart _ _ .issue => true
  | _ => false

/-- A numbered step makes one update, and leaves no command at the first step of an address phase. -/
def EngineUpdate (s t : State) : Prop := BusUpdate s t.bm ∧ ∀ c, t.cmd = some c → c.atIssue = false

theorem engineUpdate_goTo {s u : State} (h : BusUpdate s u.bm) {c : Command} (hc : c.atIssue = false) :
    EngineUpdate s (goTo c u) :=
  ⟨h, fun _ hcmd => Option.some.inj hcmd ▸ hc⟩

theorem engineUpdate_complete {s u : State} (h : BusUpdate s u.bm) (v : Word) : EngineUpdate s (complete v u) :=
  ⟨h, nofun⟩

theorem engineUpdate_waitStep {s : State} {c go : Command} (hcmd : s.cmd = some c) (hc : c.atIssue = false)
    (hgo : go.atIssue = false) (cond : Bool) : EngineUpdate s (waitStep cond go s) := by
  cases cond
  · exact ⟨.unchanged, fun _ hc' => Option.some.inj (hcmd.symm.trans hc') ▸ hc⟩
  · exact engineUpdate_goTo .unchanged hgo

theorem engineUpdate_send {s t : State} {b : Byte} {c : Command} (hc : c.atIssue = false)
    (h : busSendData b (goTo c s) = .next t) : EngineUpdate s t := by
  obtain ⟨-, rfl⟩ := busSendData_eq_next h
  exact ⟨.send b, fun _ hcmd => Option.some.inj hcmd ▸ hc⟩

theorem engineUpdate_ack {s t : State} {c : Command} (hc : c.atIssue = false)
    (h : busAckAndReceive (goTo c s) = .next t) : EngineUpdate s t := by
  obtain ⟨-, rfl⟩ := busAckAndReceive_eq_next h
  exact ⟨.acknowledge _ _, fun _ hcmd => Option.some.inj hcmd ▸ hc⟩

theorem engineUpdate_nak {s t : State} {c : Command} (hc : c.atIssue = false)
    (h : busNak (goTo c s) = .next t) : EngineUpdate s t := by
  obtain ⟨-, rfl⟩ := busNak_eq_next h
  exact ⟨.acknowledge _ _, fun _ hcmd => Option.some.inj hcmd ▸ hc⟩

/-- The counter is consumed, never raised (00_scope.md R12 b). -/
theorem countDown_le (n : Byte) : countDown n ≤ n := by
  unfold countDown
  split <;> bv_omega

theorem engineStep_update {s t : State} (h : engineStep s = .next t) : EngineUpdate s t := by
  cases hcmd : s.cmd with
  | none =>
    cases (engineStep_of_no_command hcmd).symm.trans h
    exact ⟨.unchanged, fun c hc => nomatch hcmd.symm.trans hc⟩
  | some c =>
    rw [engineStep, hcmd] at h
    cases c
    case bmInit => cases h; exact engineUpdate_complete (.init _ _) _
    case stop => cases h; exact engineUpdate_complete .stop _
    case writeAsync => cases h; exact engineUpdate_complete (.arm _ _) _
    case tbInit | tbRestart =>
      cases h
      exact engineUpdate_complete (s := s) (u := startTimebase s) (startTimebase_bm s ▸ .unchanged) _
    case tbNow => cases h; exact engineUpdate_complete .unchanged _
    case start a n at_ =>
      cases at_ <;> cases h
      case issue => exact engineUpdate_goTo (.start a n (.inl hcmd)) rfl
      case wait => exact engineUpdate_waitStep hcmd rfl rfl _
      case form => exact engineUpdate_complete .unchanged _
    case restart a n at_ =>
      cases at_ <;> cases h
      case issue => exact engineUpdate_goTo (.start a n (.inr hcmd)) rfl
      case wait => exact engineUpdate_waitStep hcmd rfl rfl _
      case form => exact engineUpdate_complete .unchanged _
    case scan a at_ =>
      cases at_ <;> simp only [stepScan] at h
      case init => cases h; exact engineUpdate_goTo .unchanged rfl
      case probe => cases h; exact engineUpdate_goTo (.probe _) rfl
      case wait => cases h; exact engineUpdate_waitStep hcmd rfl rfl _
      case test | next =>
        split at h <;> cases h
        · exact engineUpdate_complete .unchanged _
        · exact engineUpdate_goTo .unchanged rfl
    case write b at_ =>
      cases at_ <;> simp only [stepWrite] at h
      case mode => cases h; exact engineUpdate_goTo .polling rfl
      case wait | waitAck => cases h; exact engineUpdate_waitStep hcmd rfl rfl _
      case send => exact engineUpdate_send rfl h
      case form => cases h; exact engineUpdate_complete .unchanged _
    case writeBytes p l i at_ =>
      cases at_ <;> simp only [stepWriteBytes] at h
      case init | next => cases h; exact engineUpdate_goTo .unchanged rfl
      case test | check =>
        split at h <;> cases h
        · exact engineUpdate_complete .unchanged _
        · exact engineUpdate_goTo .unchanged rfl
      case mode => cases h; exact engineUpdate_goTo .polling rfl
      case wait | waitAck => cases h; exact engineUpdate_waitStep hcmd rfl rfl _
      case send => exact engineUpdate_send rfl h
    case read at_ =>
      cases at_ <;> simp only [stepRead] at h
      case wait => cases h; exact engineUpdate_waitStep hcmd rfl rfl _
      case count => cases h; exact engineUpdate_goTo (u := consumeCount s) (.count _ (countDown_le _)) rfl
      case take => cases h; exact engineUpdate_goTo .unchanged rfl
      case ack v =>
        rw [acknowledgeByte_eq] at h
        split at h
        · exact engineUpdate_nak rfl h
        · exact engineUpdate_ack rfl h
      case form => cases h; exact engineUpdate_complete .unchanged _
    case readLast at_ =>
      cases at_ <;> simp only [stepReadLast] at h
      case zero => cases h; exact engineUpdate_goTo (.count 0#8 (BitVec.le_def.2 (Nat.zero_le _))) rfl
      case wait => cases h; exact engineUpdate_waitStep hcmd rfl rfl _
      case count => cases h; exact engineUpdate_goTo (u := consumeCount s) (.count _ (countDown_le _)) rfl
      case take => cases h; exact engineUpdate_goTo .unchanged rfl
      case nak v => exact engineUpdate_nak rfl h
      case form => cases h; exact engineUpdate_complete .unchanged _

/-- The answers of the environment write the conditions, the phase and the data byte, and nothing else of the bus
master (20_memory.md R67 to R69). -/
theorem envStep_bm {e : EnvEvent} {s t : State} (h : envStep e s = .next t) :
    t.bm = { s.bm with
      phase := t.bm.phase, wif := t.bm.wif, rif := t.bm.rif, rxack := t.bm.rxack, arblost := t.bm.arblost,
      buserr := t.bm.buserr, data := t.bm.data, inflight := t.bm.inflight } := by
  cases e
  case addr x =>
    rcases envAddr_eq_next h with ⟨-, rfl⟩ | ⟨-, rfl⟩
    · cases x
      case ack =>
        cases hdir : s.bm.dir
        case write => rw [answerAddress_ack_of_write hdir]
        case read => rw [answerAddress_ack_of_read hdir]
      all_goals rfl
    · rfl
  case data a =>
    cases h
    rw [envData_eq]
    split <;> rfl
  case recv b =>
    cases h
    rw [envRecv_eq]
    split <;> rfl

/-- The pump's handler writes the data byte, the write condition and its own state (43_bus_pump.md R191). -/
theorem pumpIsr_bm {s t : State} (h : pumpIsr s = .next t) :
    t.bm = { s.bm with
      data := t.bm.data, wif := t.bm.wif, inflight := t.bm.inflight, cur := t.bm.cur, pdone := t.bm.pdone,
      pact := t.bm.pact, wie := t.bm.wie } := by
  by_cases hen : pumpIrqEnabled s = true
  · by_cases hcur : s.bm.cur = s.bm.fin
    · cases (pumpIsr_of_exhausted hen hcur).symm.trans h
      rfl
    · obtain ⟨-, rfl⟩ := busSendData_eq_next ((pumpIsr_of_sending hen hcur).symm.trans h)
      rfl
  · cases (pumpIsr_of_disabled hen).symm.trans h
    rfl

/-! ## The read counter -/

/-- The command in progress is a START or RESTART at its first step, with that read count, in read direction. -/
def State.RaisesTo (s : State) (n : Byte) : Prop :=
  n ≠ 0#8 ∧ ∃ a, s.cmd = some (.start a n .issue) ∨ s.cmd = some (.restart a n .issue)

theorem BusUpdate.rdcnt {s : State} {b : BusMaster} (h : BusUpdate s b) :
    b.rdcnt ≤ s.bm.rdcnt ∨ s.RaisesTo b.rdcnt := by
  cases h
  case start a n hcmd =>
    by_cases hn : n = 0#8
    · exact .inl (by simp [issueAddress, hn])
    · exact .inr (by simpa [issueAddress, hn] using ⟨hn, a, hcmd⟩)
  case count n hn => exact .inl hn
  all_goals exact .inl (BitVec.le_refl _)

theorem atIssue_of_raisesTo {s : State} {n : Byte} (h : s.RaisesTo n) : ∃ c, s.cmd = some c ∧ c.atIssue = true := by
  obtain ⟨-, a, hcmd | hcmd⟩ := h
  · exact ⟨_, hcmd, rfl⟩
  · exact ⟨_, hcmd, rfl⟩

/-- The address phase that has raised the counter is waited for. -/
theorem engineStep_after_raise {s t : State} {n : Byte} (hs : s.RaisesTo n) (h : engineStep s = .next t) :
    engineStep t = .next t := by
  obtain ⟨-, a, hcmd | hcmd⟩ := hs
  all_goals
    rw [engineStep, hcmd] at h
    cases h
    exact engineStep_of_waiting rfl

/-- Only the first of a run of numbered steps can raise the counter, and then it is the last one that does anything. -/
theorem engineRun_rdcnt {n : Nat} {s t : State} (h : engineRun n s = .next t) :
    t.bm.rdcnt ≤ s.bm.rdcnt ∨ s.RaisesTo t.bm.rdcnt := by
  induction n generalizing s with
  | zero =>
    cases h
    exact .inl (BitVec.le_refl _)
  | succ n ih =>
    obtain ⟨u, hu, hrun⟩ := andThen_eq_next h
    obtain ⟨hupd, hnot⟩ := engineStep_update hu
    rcases hupd.rdcnt with hle | hraise
    · rcases ih hrun with hle' | hraise
      · exact .inl (BitVec.le_trans hle' hle)
      · obtain ⟨c, hcmd, hissue⟩ := atIssue_of_raisesTo hraise
        cases hissue.symm.trans (hnot c hcmd)
    · cases (engineRun_of_stuck (engineStep_after_raise hraise hu) n).symm.trans hrun
      exact .inr hraise

/-- A command raises the counter as its own first step does. -/
theorem exec_rdcnt {i : Instr} {s t : State} (h : exec i s = .next t) :
    t.bm.rdcnt ≤ s.bm.rdcnt ∨
      t.bm.rdcnt ≠ 0#8 ∧ ∃ a, i = .start a t.bm.rdcnt ∨ i = .restart a t.bm.rdcnt := by
  obtain ⟨n, hrun⟩ := exec_eq_run h
  rcases engineRun_rdcnt hrun with hle | ⟨hne, a, hcmd⟩
  · exact .inl hle
  · refine .inr ⟨hne, a, ?_⟩
    simp only [goTo_cmd, Option.some.injEq] at hcmd
    cases i
    case start | restart => simpa [commandOf] using hcmd
    all_goals simp [commandOf] at hcmd

theorem hostStep_rdcnt {a : HostAction} {s t : State} (h : hostStep a s = .next t) :
    t.bm.rdcnt ≤ s.bm.rdcnt ∨
      ∃ w x, a = .command w ∧
        (decode w = .ok (.start x t.bm.rdcnt) ∨ decode w = .ok (.restart x t.bm.rdcnt)) ∧ t.bm.rdcnt ≠ 0#8 := by
  cases a
  case command w =>
    rw [hostStep, hostCommand] at h
    split at h
    next => cases h; exact .inl (BitVec.le_refl _)
    next i hdec =>
      rcases exec_rdcnt h with hle | ⟨hne, x, hi⟩
      · exact .inl hle
      · exact .inr ⟨w, x, rfl, hi.imp (hdec.trans <| congrArg _ ·) (hdec.trans <| congrArg _ ·), hne⟩
  case readStatus => cases h; exact .inl (BitVec.le_refl _)
  all_goals
    obtain ⟨-, rfl⟩ := hostAccess_eq_next h
    exact .inl (BitVec.le_refl _)

/-- The moves of the other agents do not raise the counter. -/
theorem perform_rdcnt {m : Move} (hhost : ∀ a, m ≠ .host a) (hengine : m ≠ .engine) {s t : State}
    (h : perform m s = .next t) : t.bm.rdcnt ≤ s.bm.rdcnt := by
  cases m
  case host a => exact absurd rfl (hhost a)
  case engine => exact absurd rfl hengine
  case env e => rw [envStep_bm h]; exact BitVec.le_refl _
  case pumpIrq => rw [pumpIsr_bm h]; exact BitVec.le_refl _
  case tick => cases h; rw [tbTick_frame]; exact BitVec.le_refl _
  case timerIrq => cases h; rw [tbIsr_frame]; exact BitVec.le_refl _
  case powerOn => cases h; exact BitVec.le_def.2 (Nat.zero_le _)

/-- Settles O44: the engine by `engineRun_rdcnt`, the host by `hostStep_rdcnt`, and no other move raises the counter. -/
theorem onlyReadDirectionStartsRaiseTheCounter : Obligations.OnlyReadDirectionStartsRaiseTheCounter := by
  unfold Obligations.OnlyReadDirectionStartsRaiseTheCounter
  intro s t h hlt
  have hraised : ¬t.bm.rdcnt ≤ s.bm.rdcnt := BitVec.not_le.2 hlt
  have hengine : ∀ {n : Nat} {u : State}, u.cmd = s.cmd → u.bm = s.bm → engineRun n u = .next t →
      ∃ a n, n ≠ 0#8 ∧ t.bm.rdcnt = n ∧ (s.cmd = some (.start a n .issue) ∨ s.cmd = some (.restart a n .issue)) := by
    intro n u hcmd hbm hrun
    obtain ⟨hne, a, hissue⟩ := (engineRun_rdcnt hrun).resolve_left (hbm ▸ hraised)
    exact ⟨a, _, hne, rfl, hcmd ▸ hissue⟩
  cases hs : s.schedule with
  | nil =>
    rw [step_of_none_due hs] at h
    exact .inr (hengine rfl rfl h)
  | cons m ms =>
    rw [step_of_due hs] at h
    by_cases hhost : ∃ a, m = .host a
    · obtain ⟨a, rfl⟩ := hhost
      obtain ⟨w, x, rfl, hdec, hne⟩ := (hostStep_rdcnt h).resolve_left hraised
      exact .inl ⟨w, ms, x, _, rfl, hdec, hne, rfl⟩
    · by_cases hm : m = .engine
      · subst hm
        exact .inr (hengine (u := { s with schedule := ms }) rfl rfl (engineRun_succ h 0))
      · exact absurd (perform_rdcnt (not_exists.1 hhost) hm h) hraised

/-! ## The data phase -/

/-- A numbered step does not enter a data phase. -/
theorem BusUpdate.phase {s : State} {b : BusMaster} (h : BusUpdate s b) :
    b.phase = s.bm.phase ∨ b.phase = .idle ∨ b.phase = .address := by
  cases h
  case probe | start => exact .inr (.inr rfl)
  case stop | init => exact .inr (.inl rfl)
  all_goals exact .inl rfl

/-- The phase is as it was, or not one of the two data phases. -/
def EntersNoData (s t : State) : Prop :=
  t.bm.phase = .dataWrite ∨ t.bm.phase = .dataRead → t.bm.phase = s.bm.phase

theorem engineRun_entersNoData {n : Nat} {s t : State} (h : engineRun n s = .next t) : EntersNoData s t := by
  refine engineRun_induct (P := EntersNoData s) (fun {u v} hs hu hdata => ?_) (fun _ => rfl) h
  obtain ⟨hupd, -⟩ := engineStep_update hu
  rcases hupd.phase with hp | hp | hp
  · rw [hp] at hdata ⊢
    exact hs hdata
  · simp [hp] at hdata
  · simp [hp] at hdata

theorem hostStep_entersNoData {a : HostAction} {s t : State} (h : hostStep a s = .next t) : EntersNoData s t := by
  cases a
  case command w =>
    rw [hostStep, hostCommand] at h
    split at h
    next => cases h; exact fun _ => rfl
    next i _ =>
      obtain ⟨n, hrun⟩ := exec_eq_run h
      exact engineRun_entersNoData (s := goTo (commandOf i s) s) hrun
  case readStatus => cases h; exact fun _ => rfl
  all_goals
    obtain ⟨-, rfl⟩ := hostAccess_eq_next h
    exact fun _ => rfl

/-- Of the answers only an acknowledgement of an address byte enters a data phase (20_memory.md R67). -/
theorem envStep_entersNoData {e : EnvEvent} {s t : State} (h : envStep e s = .next t)
    (he : ¬(e = .addr .ack ∧ s.bm.inflight = .addr)) : EntersNoData s t := by
  cases e
  case addr x =>
    rcases envAddr_eq_next h with ⟨hin, rfl⟩ | ⟨-, rfl⟩
    · cases x
      case ack => exact absurd ⟨rfl, hin⟩ he
      all_goals exact fun _ => rfl
    · exact fun _ => rfl
  case data a =>
    cases h
    rw [envData_eq]
    split <;> exact fun _ => rfl
  case recv b =>
    cases h
    rw [envRecv_eq]
    split <;> exact fun _ => rfl

theorem perform_entersNoData {m : Move} {s t : State} (h : perform m s = .next t)
    (hm : ¬(m = .env (.addr .ack) ∧ s.bm.inflight = .addr)) : EntersNoData s t := by
  cases m
  case host a => exact hostStep_entersNoData h
  case engine => exact engineRun_entersNoData (engineRun_succ h 0)
  case env e => exact envStep_entersNoData h fun ⟨he, hin⟩ => hm ⟨congrArg _ he, hin⟩
  case pumpIrq => intro _; rw [pumpIsr_bm h]
  case tick => cases h; rw [tbTick_frame]; exact fun _ => rfl
  case timerIrq => cases h; rw [tbIsr_frame]; exact fun _ => rfl
  case powerOn => cases h; exact fun hdata => by simp [powerOnReset, State.reset] at hdata

theorem step_entersData {s t : State} (h : step s = .next t) (hdata : t.bm.phase = .dataWrite ∨ t.bm.phase = .dataRead)
    (hne : t.bm.phase ≠ s.bm.phase) : ∃ ms, s.schedule = .env (.addr .ack) :: ms ∧ s.bm.inflight = .addr := by
  cases hs : s.schedule with
  | nil =>
    rw [step_of_none_due hs] at h
    exact absurd (engineRun_entersNoData h hdata) hne
  | cons m ms =>
    rw [step_of_due hs] at h
    by_contra hno
    refine hne (perform_entersNoData (s := { s with schedule := ms }) h (fun ⟨hm, hin⟩ => hno ⟨ms, ?_, hin⟩) hdata)
    rw [hm]

/-- An address phase that has ended is acknowledged exactly where the phase is a data phase. -/
theorem State.Inv.acked_iff {s : State} (h : s.Inv) (hen : s.bm.en = true) (hidle : s.bm.phase ≠ .idle)
    (hin : s.bm.inflight = .none) (hacked : s.bm.phase ≠ .address → s.bm.addressAcked = true) :
    s.bm.addressAcked = true ↔ s.bm.phase = .dataWrite ∨ s.bm.phase = .dataRead := by
  cases hphase : s.bm.phase
  case idle => exact absurd hphase hidle
  case address => simp [h.settled.addressFailed hen hphase hin]
  case dataWrite | dataRead => simp [hacked (by simp [hphase])]

theorem boolResult_eq_one_iff (b : Bool) : boolResult b = 1#32 ↔ b = true := by
  cases b <;> simp [boolResult]

/-- What START and RESTART answer when their address phase has ended. -/
theorem finishAddress_result_iff {s : State} (h : s.Inv) {a : BusAddress} {n : Byte}
    (hcmd : s.cmd = some (.start a n .form) ∨ s.cmd = some (.restart a n .form)) :
    (finishAddress s).ifc.result = 1#32 ↔
      (finishAddress s).bm.phase = .dataWrite ∨ (finishAddress s).bm.phase = .dataRead := by
  have hstands : (s.bm.en = true ∧ s.bm.pact = false) ∧ (Command.start a n .form).Holds s.bm := by
    have hs := h.stands
    rcases hcmd with hcmd | hcmd <;> rw [hcmd] at hs <;> exact ⟨hs.1 rfl, hs.2⟩
  obtain ⟨⟨hen, -⟩, hidle, hin, -, hacked⟩ := hstands
  exact (boolResult_eq_one_iff _).trans (h.acked_iff hen hidle hin hacked)

theorem admits_dataWrite {i : Instr} {s : State} (ha : admits i s = true)
    (hi : i = .writeBytes ∨ i = .writeAsync ∨ ∃ b, i = .write b) : s.bm.phase = .dataWrite := by
  rcases hi with rfl | rfl | ⟨b, rfl⟩
  · exact ((admitWrite_eq_none s).1 ((admitWriteBytes_eq_none s).1 ((admits_writeBytes_iff s).1 ha)).1).2.1
  · exact ((admitAsync_eq_none s).1 ((admits_writeAsync_iff s).1 ha)).2.1
  · exact ((admitWrite_eq_none s).1 ((admits_write_iff b s).1 ha)).2.1

theorem admits_dataRead {i : Instr} {s : State} (ha : admits i s = true) (hi : i = .read ∨ i = .readLast) :
    s.bm.phase = .dataRead := by
  rcases hi with rfl | rfl
  · exact ((admitRead_eq_none s).1 ((admits_read_iff s).1 ha)).2
  · exact ((admitRead_eq_none s).1 ((admits_readLast_iff s).1 ha)).2

/-- Settles O53: only an acknowledgement enters a data phase, an address phase that has ended is acknowledged exactly in
a data phase, admission reads the phase, and the trace keeps the protocol. -/
theorem dataPhaseNeedsAnAcknowledgedAddress : Obligations.DataPhaseNeedsAnAcknowledgedAddress := by
  unfold Obligations.DataPhaseNeedsAnAcknowledgedAddress
  refine ⟨fun s t h hdata hne => step_entersData h hdata hne, fun s t a n hinv hcmd h => ?address,
    fun s t a hinv hcmd h => ?scan, fun s t i h => ?admission, fun s hinv => hinv.traceLegal⟩
  case address =>
    have hstep : engineStep s = .next (finishAddress s) := by
      rcases hcmd with hcmd | hcmd <;> rw [engineStep, hcmd] <;> rfl
    cases hstep.symm.trans h
    exact finishAddress_result_iff hinv hcmd
  case scan =>
    have hs := hinv.stands
    rw [hcmd] at hs
    obtain ⟨hon, -, hidle, hread, hin, hacked⟩ := hs
    have hiff := hinv.acked_iff (hon rfl).1 hidle hin hacked
    rw [engineStep, hcmd] at h
    simp only [stepScan] at h
    split at h <;> cases h
    case isTrue hok => simpa [hread] using hiff.1 hok
    case isFalse hno => simpa using fun hphase => hno (hiff.2 (.inl hphase))
  case admission =>
    obtain ⟨ha, -⟩ := exec_eq_next h
    exact ⟨admits_dataWrite ha, admits_dataRead ha⟩

end Sys2Proof.Machine
end

section
/-! PROOFS. START, RESTART and SCAN (41_bus_address.md R142, R143, R145): the address byte, the address phase they
issue, its end for every answer of the environment, and what they leave alone. -/

namespace Sys2Proof.Machine

/-! ## The address byte (30_encoding.md R93, R94) -/

theorem addressByte_address (a : BusAddress) (d : Direction) : (addressByte a d).extractLsb' 1 7 = a :=
  (Laws.extract_append_high a (directionBit d) 0 7).trans (Laws.extract_all a)

theorem addressByte_direction (a : BusAddress) (d : Direction) :
    (addressByte a d).extractLsb' 0 1 = directionBit d :=
  Laws.extract_append_low a (directionBit d)

theorem addressByte_toNat (a : BusAddress) (d : Direction) :
    (addressByte a d).toNat = 2 * a.toNat + (directionBit d).toNat := by
  rw [addressByte, BitVec.toNat_append, ← Nat.shiftLeft_add_eq_or_of_lt (directionBit d).isLt, Nat.shiftLeft_eq,
    Nat.mul_comm, pow_one]

theorem directionBit_directionOfCount (n : Byte) :
    directionBit (directionOfCount n) = if n ≠ 0#8 then 1#1 else 0#1 := by
  by_cases hn : n = 0#8 <;> simp [directionOfCount, directionBit, hn]

/-! ## Runs of moves, one move at a time -/

theorem performAll_cons {m : Move} {s t : State} (h : perform m s = .next t) (ms : List Move) :
    performAll (m :: ms) s = performAll ms t := by
  rw [performAll, h, andThen_next]

theorem perform_of_performAll {m : Move} {s t : State} (h : performAll [m] s = .next t) : perform m s = .next t := by
  obtain ⟨u, hu, hnil⟩ := andThen_eq_next h
  cases hnil
  exact hu

theorem perform_envAddr {s : State} (h : s.bm.inflight = .addr) (x : AddrAnswer) :
    perform (.env (.addr x)) s = .next (answerAddress x s) := if_pos h

theorem perform_envRecv {s : State} (h : s.bm.inflight = .recv) (b : Byte) :
    perform (.env (.recv b)) s = .next { s with
      bm := { s.bm with data := b, inflight := .none, rif := true }, trace := s.trace ++ [.rx b] } := by
  rw [perform, envStep, envRecv_eq, if_pos h]

/-! ## The address phase of START and RESTART -/

/-- START, or RESTART, waiting for its address phase. -/
def WaitsForAddress (a : BusAddress) (n : Byte) (c : Command) : Prop := c = .start a n .wait ∨ c = .restart a n .wait

/-- Step 1 of START and RESTART as an update of the state. -/
theorem issueAddress_eq (a : BusAddress) (n : Byte) (s : State) :
    issueAddress a n s = { s with
      bm := { s.bm with
        rdcnt := if n = 0#8 then s.bm.rdcnt else n
        wif := false, rif := false, arblost := false, buserr := false, phase := .address,
        dir := directionOfCount n, txmode := .none, inflight := .addr }
      trace := s.trace ++ [.start, .tx (addressByte a (directionOfCount n))] } := by
  rw [issueAddress, busAddrPhase, Laws.directionOfByte_addressByte]
  rfl

theorem waiting_issued {a : BusAddress} {n : Byte} {c : Command} (hc : WaitsForAddress a n c) (s : State) :
    waiting (goTo c (issueAddress a n s)) = true := by
  rcases hc with rfl | rfl <;> rfl

/-- START and RESTART go on to the wait for their address phase. -/
theorem exec_reaches_addressWait {i : Instr} {a : BusAddress} {n : Byte} {c : Command} {s : State}
    (hi : (i = .start a n ∧ c = .start a n .wait) ∨ (i = .restart a n ∧ c = .restart a n .wait))
    (ha : admits i s = true) :
    (s.schedule = [] → exec i s = .next (goTo c (issueAddress a n s))) ∧
      ∃ t, exec i s = .next t ∧ performAll [.engine] t = .next (goTo c (issueAddress a n s)) := by
  have hw : engineStep (goTo c (issueAddress a n s)) = .next (goTo c (issueAddress a n s)) :=
    engineStep_of_waiting (waiting_issued (hi.imp And.right And.right) s)
  rcases hi with ⟨rfl, rfl⟩ | ⟨rfl, rfl⟩ <;> exact exec_reaches (k := 1) ha (by decide) rfl hw

theorem exec_then_addressWait {i : Instr} {a : BusAddress} {n : Byte} {s : State}
    (hi : i = .start a n ∨ i = .restart a n) (ha : admits i s = true) :
    ∃ t c, exec i s = .next t ∧ WaitsForAddress a n c ∧
      perform .engine t = .next (goTo c (issueAddress a n s)) := by
  rcases hi with rfl | rfl
  · obtain ⟨-, t, hexec, hrun⟩ := exec_reaches_addressWait (.inl ⟨rfl, rfl⟩) ha
    exact ⟨t, _, hexec, .inl rfl, perform_of_performAll hrun⟩
  · obtain ⟨-, t, hexec, hrun⟩ := exec_reaches_addressWait (.inr ⟨rfl, rfl⟩) ha
    exact ⟨t, _, hexec, .inr rfl, perform_of_performAll hrun⟩

/-- Settles O26: the state at the wait, with the direction and the address byte by the read count. -/
theorem startIssuesOneAddressPhase : Obligations.StartIssuesOneAddressPhase := by
  unfold Obligations.StartIssuesOneAddressPhase
  rintro s wait a n i c hi ha rfl
  have hreach := exec_reaches_addressWait hi ha
  have hbyte : addressByte a (directionOfCount n) = a ++ (if n = 0#8 then 0#1 else 1#1) := by
    rw [addressByte, directionBit_directionOfCount, ite_not]
  rw [issueAddress_eq, hbyte] at hreach
  exact hreach

/-- Settles O6: the byte from its two fields, and the trace of the step that issues an address phase. -/
theorem addressByteCarriesAddressAndDirection : Obligations.AddressByteCarriesAddressAndDirection := by
  unfold Obligations.AddressByteCarriesAddressAndDirection
  refine ⟨fun a d => ⟨addressByte_address a d, addressByte_direction a d, addressByte_toNat a d⟩, ⟨rfl, rfl⟩,
    directionBit_directionOfCount, fun s a n i hi ha => ?start, fun s a hcmd => ?scan⟩
  case start =>
    obtain ⟨t, c, hexec, -, hrun⟩ := exec_then_addressWait hi ha
    exact ⟨t, _, hexec, performAll_cons hrun [], rfl⟩
  case scan =>
    rw [engineStep, hcmd]
    exact ⟨_, rfl, rfl⟩

/-! ## The end of an address phase -/

/-- An answer that is no acknowledgement fails the address phase, with the events and the failure bits it names. -/
theorem answerAddress_of_failure {x : AddrAnswer} (hx : x ≠ .ack) (s : State) :
    ∃ r d, answerAddress x s = addressFailed r (answerLosesArbitration x) (answerIsBusError x) (answerEvents x)
        { s with draws := d } ∧
      (x = .nak → r = .nak) ∧ ((answerLosesArbitration x || answerIsBusError x) = true ∨ r = .nak) := by
  cases x
  case ack => exact absurd rfl hx
  case nak => exact ⟨.nak, s.draws, rfl, fun _ => rfl, .inr rfl⟩
  all_goals exact ⟨_, s.draws + 1, rfl, nofun, .inl rfl⟩

theorem addressFailed_not_acked {r : Ack} {arb err : Bool} (h : (arb || err) = true ∨ r = .nak) (es : List BusEvent)
    (s : State) : (addressFailed r arb err es s).bm.addressAcked = false := by
  rcases h with h | rfl
  · cases arb <;> simp_all [BusMaster.addressAcked]
  · rfl

/-- Steps 2 and 3 of START and RESTART, where the address phase is done. -/
theorem finish_of_done {u : State} {a : BusAddress} {n : Byte} {c : Command} (hc : WaitsForAddress a n c)
    (hcmd : u.cmd = some c) (hdone : u.bm.addressDone = true) :
    performAll [.engine, .engine] u = .next (finishAddress u) := by
  rcases hc with rfl | rfl
  all_goals
    rw [performAll_pair, perform, engineStep, hcmd]
    simp only [stepStart, stepRestart, waitStep_of_true hdone]
    rfl

theorem answerAddress_cmd (x : AddrAnswer) (s : State) : (answerAddress x s).cmd = s.cmd := by
  rw [answerAddress_frame]

/-- An answer that ends the address phase completes the command. -/
theorem answer_then_finish {s u : State} {a : BusAddress} {n : Byte} {c : Command} (hc : WaitsForAddress a n c)
    {x : AddrAnswer} (hu : answerAddress x (goTo c (issueAddress a n s)) = u) (hdone : u.bm.addressDone = true) :
    performAll [.env (.addr x), .engine, .engine] (goTo c (issueAddress a n s)) = .next (finishAddress u) := by
  subst hu
  rw [performAll_cons (perform_envAddr rfl x)]
  exact finish_of_done hc (answerAddress_cmd x _) hdone

/-- A failed START or RESTART, in either direction. -/
theorem failed_start {s : State} {a : BusAddress} {n : Byte} {c : Command} (hc : WaitsForAddress a n c)
    {x : AddrAnswer} (hx : x ≠ .ack) :
    ∃ u, performAll [.env (.addr x), .engine, .engine] (goTo c (issueAddress a n s)) = .next u ∧ u.cmd = none ∧
      u.ifc.result = 0#32 ∧ u.bm.phase = .address ∧ u.bm.wif = true ∧ u.bm.rif = false ∧ u.bm.inflight = .none ∧
      u.bm.rdcnt = (if n = 0#8 then s.bm.rdcnt else n) ∧ (x = .nak → u.bm.rxack = .nak) ∧
      u.bm.arblost = answerLosesArbitration x ∧ u.bm.buserr = answerIsBusError x ∧
      u.trace = s.trace ++ [.start, .tx (addressByte a (directionOfCount n))] ++ answerEvents x := by
  obtain ⟨r, d, hu, hnak, hfail⟩ := answerAddress_of_failure hx (goTo c (issueAddress a n s))
  refine ⟨_, answer_then_finish hc hu rfl, rfl, ?_, rfl, rfl, rfl, rfl, rfl, hnak, Bool.false_or _, Bool.false_or _,
    rfl⟩
  rw [finishAddress, addressFailed_not_acked hfail]
  rfl

/-- Settles O27: the acknowledgement by computation, every other answer by `failed_start`. -/
theorem writeDirectionStartOutcomes : Obligations.WriteDirectionStartOutcomes := by
  unfold Obligations.WriteDirectionStartOutcomes
  intro s a i hi ha
  obtain ⟨t, c, hexec, hc, hrun⟩ := exec_then_addressWait hi ha
  refine ⟨t, hexec, fun x => ?_⟩
  rw [performAll_cons hrun]
  by_cases hx : x = .ack
  · subst hx
    have hu := answerAddress_ack_of_write (s := goTo c (issueAddress a 0#8 s)) (by rw [issueAddress_eq]; rfl)
    refine ⟨_, answer_then_finish hc hu rfl, rfl, rfl, rfl, rfl, rfl, rfl, rfl, fun _ => rfl, nofun, rfl, rfl, rfl⟩
  · obtain ⟨u, hu, hcmd, hresult, hphase, hwif, hrif, hin, hcount, hnak, harb, herr, htrace⟩ :=
      failed_start (s := s) hc hx
    refine ⟨u, hu, hcmd, ?_, ?_, hwif, hrif, hin, hcount, fun h => absurd h hx, hnak, harb, herr, htrace⟩
    · rw [if_neg hx, hresult]
    · rw [if_neg hx, hphase]

/-- Settles O28: acknowledged, the command completes when the first byte has been received; every other answer by
`failed_start`. -/
theorem readDirectionStartOutcomes : Obligations.ReadDirectionStartOutcomes := by
  unfold Obligations.ReadDirectionStartOutcomes
  intro s a n i hi hn ha
  obtain ⟨t, c, hexec, hc, hrun⟩ := exec_then_addressWait hi ha
  have hdir : directionOfCount n = .read := if_neg hn
  refine ⟨t, hexec, fun b => ?_, fun x hx => ?_⟩
  · have hack := answerAddress_ack_of_read (s := goTo c (issueAddress a n s)) (by rw [issueAddress_eq]; exact hdir)
    have hu := (perform_envAddr (s := goTo c (issueAddress a n s)) rfl .ack).trans (congrArg _ hack)
    refine ⟨_, (performAll_cons hrun _).trans ((performAll_cons hu _).trans ((performAll_cons
      (perform_envRecv rfl b) _).trans (finish_of_done hc rfl rfl))), rfl, rfl, rfl, rfl, rfl, rfl, if_neg hn, rfl, ?_⟩
    simp [finishAddress, issueAddress_eq, hdir]
  · obtain ⟨u, hu, hcmd, hresult, hphase, hwif, hrif, -, hcount, hnak, harb, herr, htrace⟩ :=
      failed_start (s := s) hc hx
    rw [if_neg hn] at hcount
    rw [hdir] at htrace
    exact ⟨u, (performAll_cons hrun _).trans hu, hcmd, hresult, hphase, hwif, hrif, hcount, hnak, harb, herr, htrace⟩

/-! ## SCAN (41_bus_address.md R145) -/

/-- SCAN has put the address `a` on the bus after the events `before`, and waits for the answer. -/
structure Probing (a : Nat) (count : Byte) (before : List BusEvent) (s : State) : Prop where
  cmd : s.cmd = some (.scan (BitVec.ofNat 7 a) .wait)
  inflight : s.bm.inflight = .addr
  phase : s.bm.phase = .address
  dir : s.bm.dir = .write
  notLost : s.bm.arblost = false ∧ s.bm.buserr = false
  rdcnt : s.bm.rdcnt = count
  trace : s.trace = before ++ [.start, .tx (addressByte (BitVec.ofNat 7 a) .write)]

/-- Step 2 of SCAN. -/
theorem probing_of_probe (a : Nat) (s : State) :
    Probing a s.bm.rdcnt s.trace
      (goTo (.scan (BitVec.ofNat 7 a) .wait) (busAddrPhase (addressByte (BitVec.ofNat 7 a) .write) s)) :=
  ⟨rfl, rfl, rfl, Laws.directionOfByte_addressByte _ _, ⟨rfl, rfl⟩, rfl, rfl⟩

/-! One numbered step of SCAN each. -/

theorem scan_probe {s : State} {a : BusAddress} (hcmd : s.cmd = some (.scan a .probe)) :
    perform .engine s = .next (goTo (.scan a .wait) (busAddrPhase (addressByte a .write) s)) := by
  rw [perform, engineStep, hcmd]
  rfl

theorem scan_wait {s : State} {a : BusAddress} (hcmd : s.cmd = some (.scan a .wait))
    (hdone : s.bm.addressDone = true) : perform .engine s = .next (goTo (.scan a .test) s) := by
  rw [perform, engineStep, hcmd]
  exact congrArg _ (waitStep_of_true hdone _ s)

theorem scan_test {s : State} {a : BusAddress} (hcmd : s.cmd = some (.scan a .test)) :
    perform .engine s =
      if s.bm.addressAcked then .next (complete (foundResult a) s) else .next (goTo (.scan a .next) s) := by
  rw [perform, engineStep, hcmd]
  rfl

theorem scan_next {s : State} {a : BusAddress} (hcmd : s.cmd = some (.scan a .next)) :
    perform .engine s =
      if a = 127#7 then .next (complete notFoundResult s) else .next (goTo (.scan (a + 1#7) .probe) s) := by
  rw [perform, engineStep, hcmd]
  rfl

section Probing

variable {a : Nat} {count : Byte} {before : List BusEvent} {s : State}

/-- A failed answer takes SCAN to its last step. -/
theorem Probing.fail (h : Probing a count before s) {x : AddrAnswer} (hx : x ≠ .ack) :
    ∃ u, (∀ ms, performAll (.env (.addr x) :: .engine :: .engine :: ms) s = performAll ms u) ∧
      u.cmd = some (.scan (BitVec.ofNat 7 a) .next) ∧ u.bm.phase = .address ∧ u.bm.rdcnt = count ∧
      u.trace = before ++ [.start, .tx (addressByte (BitVec.ofNat 7 a) .write)] ++ answerEvents x := by
  obtain ⟨r, d, hu, -, hfail⟩ := answerAddress_of_failure hx s
  have hcmd : (answerAddress x s).cmd = some (.scan (BitVec.ofNat 7 a) .wait) := (answerAddress_cmd x s).trans h.cmd
  have hacked : (answerAddress x s).bm.addressAcked = false := hu ▸ addressFailed_not_acked hfail _ _
  have hwait := scan_wait hcmd (by rw [hu]; rfl)
  have htest := (scan_test (s := goTo (.scan (BitVec.ofNat 7 a) .test) (answerAddress x s)) rfl).trans
    (if_neg (by simp [hacked]))
  refine ⟨goTo (.scan (BitVec.ofNat 7 a) .next) (goTo (.scan (BitVec.ofNat 7 a) .test) (answerAddress x s)),
    fun ms => ?_, rfl, ?_, ?_, ?_⟩
  · rw [performAll_cons (perform_envAddr h.inflight x), performAll_cons hwait, performAll_cons htest]
  · rw [hu]; exact h.phase
  · rw [hu]; exact h.rdcnt
  · rw [hu, ← h.trace]; rfl

/-- After a failed answer SCAN goes on to the next address. -/
theorem Probing.fail_and_probe (h : Probing a count before s) (ha : a < 127) {x : AddrAnswer} (hx : x ≠ .ack) :
    ∃ u, performAll (probeMoves [x]) s = .next u ∧ Probing (a + 1) count (before ++ probeTrace a [x]) u := by
  obtain ⟨u, hrun, hcmd, -, hcount, htrace⟩ := h.fail hx
  have hne : BitVec.ofNat 7 a ≠ 127#7 := by
    intro heq
    have := congrArg BitVec.toNat heq
    simp at this
    omega
  have hnext := (scan_next hcmd).trans (if_neg hne)
  rw [← BitVec.ofNat_add] at hnext
  have hprobe := scan_probe (s := goTo (.scan (BitVec.ofNat 7 (a + 1)) .probe) u) rfl
  refine ⟨_, (hrun _).trans ((performAll_cons hnext _).trans (performAll_cons hprobe [])), ?_⟩
  have hnew := probing_of_probe (a + 1) (goTo (.scan (BitVec.ofNat 7 (a + 1)) .probe) u)
  simpa [hcount, htrace, probeTrace] using hnew

/-- After a failed answer of the last address SCAN completes. -/
theorem Probing.fail_at_last (h : Probing 127 count before s) {x : AddrAnswer} (hx : x ≠ .ack) :
    ∃ u, performAll (probeMoves [x]) s = .next u ∧ u.cmd = none ∧ u.ifc.result = 0#32 ∧ u.bm.phase = .address ∧
      u.bm.rdcnt = count ∧ u.trace = before ++ probeTrace 127 [x] := by
  obtain ⟨u, hrun, hcmd, hphase, hcount, htrace⟩ := h.fail hx
  have hnext := (scan_next hcmd).trans (if_pos rfl)
  have hidle : perform .engine (complete notFoundResult u) = .next (complete notFoundResult u) :=
    engineStep_of_no_command (s := complete notFoundResult u) rfl
  refine ⟨_, (hrun _).trans ((performAll_cons hnext _).trans (performAll_cons hidle [])), rfl, rfl, hphase, hcount, ?_⟩
  simpa [probeTrace] using htrace

theorem probeTrace_append (a : Nat) (xs ys : List AddrAnswer) :
    probeTrace a (xs ++ ys) = probeTrace a xs ++ probeTrace (a + xs.length) ys := by
  induction xs generalizing a with
  | nil => rfl
  | cons x xs ih =>
    rw [List.cons_append, probeTrace, probeTrace, ih, List.length_cons, Nat.add_right_comm a 1, ← Nat.add_assoc]
    simp only [List.append_assoc]

/-- Failed answers shorter than the address space leave SCAN at the address after them. -/
theorem Probing.fail_all {xs : List AddrAnswer} (h : Probing a count before s) (hx : ∀ x ∈ xs, x ≠ .ack)
    (hlen : a + xs.length ≤ 127) :
    ∃ u, performAll (probeMoves xs) s = .next u ∧ Probing (a + xs.length) count (before ++ probeTrace a xs) u := by
  induction xs generalizing a before s with
  | nil => exact ⟨s, rfl, by simpa [probeTrace] using h⟩
  | cons x xs ih =>
    rw [List.length_cons] at hlen ⊢
    obtain ⟨u, hu, hnext⟩ := h.fail_and_probe (by omega) (hx x (by simp))
    obtain ⟨v, hv, hend⟩ := ih hnext (fun y hy => hx y (by simp [hy])) (by omega)
    refine ⟨v, ?_, ?_⟩
    · rw [← List.singleton_append, probeMoves, List.flatMap_append, performAll_append]
      exact (congrArg (andThen · _) hu).trans hv
    · rw [← List.singleton_append, probeTrace_append, ← List.append_assoc, Nat.add_comm xs.length 1, ← Nat.add_assoc]
      exact hend

theorem foundResult_ofNat (ha : a < 128) : foundResult (BitVec.ofNat 7 a) = BitVec.ofNat 32 (0x100 + a) := by
  rw [foundResult, BitVec.ofNat_add]
  congr 1
  apply BitVec.eq_of_toNat_eq
  simp
  omega

/-- An acknowledgement completes SCAN with the address it has probed. -/
theorem Probing.found (h : Probing a count before s) (ha : a < 128) :
    ∃ u, performAll [.env (.addr .ack), .engine, .engine] s = .next u ∧ u.cmd = none ∧
      u.ifc.result = BitVec.ofNat 32 (0x100 + a) ∧ u.bm.phase = .dataWrite ∧ u.bm.wif = true ∧ u.bm.rdcnt = count ∧
      u.trace = before ++ [.start, .tx (addressByte (BitVec.ofNat 7 a) .write), .slave .ack] := by
  obtain ⟨harb, herr⟩ := h.notLost
  have hu := (perform_envAddr h.inflight .ack).trans (congrArg _ (answerAddress_ack_of_write h.dir))
  have hwait := scan_wait (s := { s with
    bm := { s.bm with rxack := .ack, phase := .dataWrite, inflight := .none, wif := true }
    trace := s.trace ++ [.slave .ack] }) h.cmd rfl
  have htest := (scan_test (s := goTo (.scan (BitVec.ofNat 7 a) .test) { s with
    bm := { s.bm with rxack := .ack, phase := .dataWrite, inflight := .none, wif := true }
    trace := s.trace ++ [.slave .ack] }) rfl).trans (if_pos (by simp [BusMaster.addressAcked, harb, herr]))
  refine ⟨_, (performAll_cons hu _).trans ((performAll_cons hwait _).trans (performAll_cons htest [])), rfl,
    foundResult_ofNat ha, rfl, rfl, h.rdcnt, ?_⟩
  simp [h.trace]

end Probing

/-- SCAN from its issue: its first two steps put the first address on the bus. -/
theorem exec_then_probing {s : State} (ha : admits .scan s = true) :
    ∃ t u, exec .scan s = .next t ∧ performAll [.engine, .engine] t = .next u ∧
      Probing 0 s.bm.rdcnt s.trace u := by
  obtain ⟨-, t, hexec, hrun⟩ := exec_reaches (i := .scan) (k := 2)
    (w := goTo (.scan 0#7 .wait) (busAddrPhase (addressByte 0#7 .write) s)) ha (by decide) rfl
    (engineStep_of_waiting rfl)
  exact ⟨t, _, hexec, hrun, probing_of_probe 0 s⟩

/-- Settles O29: the failures by `Probing.fail_all`, the acknowledgement by `Probing.found`, and 128 failures as 127 and
the one of the last address. -/
theorem scanFindsTheFirstAddress : Obligations.ScanFindsTheFirstAddress := by
  unfold Obligations.ScanFindsTheFirstAddress
  intro s xs ha hx
  obtain ⟨t, w, hexec, hstart, hprobe⟩ := exec_then_probing ha
  refine ⟨t, hexec, fun hlen => ?found, fun hlen => ?none⟩
  case found =>
    obtain ⟨v, hv, hend⟩ := hprobe.fail_all hx (by omega)
    rw [Nat.zero_add] at hend
    obtain ⟨u, hu, hcmd, hresult, hphase, hwif, hcount, htrace⟩ := hend.found hlen
    refine ⟨u, ?_, hcmd, hresult, hphase, hwif, hcount, htrace⟩
    have hmoves : performAll (probeMoves xs ++ [.env (.addr .ack), .engine, .engine]) w = .next u := by
      rw [performAll_append, hv, andThen_next, hu]
    exact (performAll_append [.engine, .engine] _ t).trans ((congrArg (andThen · _) hstart).trans hmoves)
  case none =>
    obtain ⟨ys, x, rfl⟩ : ∃ ys x, xs = ys ++ [x] := by
      refine ⟨xs.dropLast, xs.getLast (by rintro rfl; simp at hlen), ?_⟩
      rw [List.dropLast_append_getLast]
    have hys : ys.length = 127 := by simpa using hlen
    obtain ⟨v, hv, hend⟩ := hprobe.fail_all (xs := ys) (fun y hy => hx y (by simp [hy])) (by omega)
    rw [Nat.zero_add, hys] at hend
    obtain ⟨u, hu, hcmd, hresult, hphase, hcount, htrace⟩ := hend.fail_at_last (hx x (by simp))
    refine ⟨u, ?_, hcmd, hresult, hphase, hcount, ?_⟩
    · have hmoves : performAll (probeMoves (ys ++ [x])) w = .next u := by
        rw [probeMoves, List.flatMap_append, performAll_append]
        exact (congrArg (andThen · _) hv).trans hu
      exact (performAll_append [.engine, .engine] _ t).trans ((congrArg (andThen · _) hstart).trans hmoves)
    · rw [probeTrace_append, Nat.zero_add, hys, ← List.append_assoc, htrace]

/-! ## The frame -/

/-- Up to its wait START or RESTART is at its issue or at the wait. -/
theorem start_issued_or_waiting {i : Instr} {a : BusAddress} {k : Byte} {s t u : State} {n : Nat}
    (hi : i = .start a k ∨ i = .restart a k) (hexec : exec i s = .next t)
    (hrun : performAll (List.replicate n .engine) t = .next u) :
    ∃ c, u = goTo c s ∨ u = goTo c (issueAddress a k s) := by
  obtain ⟨m, hm⟩ := exec_then_engines hexec hrun
  obtain ⟨c, hc⟩ : ∃ c, engineRun 1 (goTo (commandOf i s) s) = .next (goTo c (issueAddress a k s)) ∧
      WaitsForAddress a k c := by
    rcases hi with rfl | rfl
    · exact ⟨_, rfl, .inl rfl⟩
    · exact ⟨_, rfl, .inr rfl⟩
  obtain ⟨j, hj, hu⟩ := engineRun_within hc.1 (engineStep_of_waiting (waiting_issued hc.2 s)) hm
  interval_cases j
  · cases hu
    exact ⟨_, .inl rfl⟩
  · cases hc.1.symm.trans hu
    exact ⟨c, .inr rfl⟩

/-- Up to its wait SCAN has its first address phase before it or behind it. -/
theorem scan_issued_or_waiting {s t u : State} {n : Nat} (hexec : exec .scan s = .next t)
    (hrun : performAll (List.replicate n .engine) t = .next u) :
    ∃ c, u = goTo c s ∨ u = goTo c (busAddrPhase (addressByte 0#7 .write) s) := by
  obtain ⟨m, hm⟩ := exec_then_engines hexec hrun
  obtain ⟨j, hj, hu⟩ := engineRun_within (k := 2)
    (w := goTo (.scan 0#7 .wait) (busAddrPhase (addressByte 0#7 .write) s)) rfl (engineStep_of_waiting rfl) hm
  interval_cases j <;> cases hu
  · exact ⟨_, .inl rfl⟩
  · exact ⟨_, .inl rfl⟩
  · exact ⟨_, .inr rfl⟩

/-- Settles O30: each of the few states up to the wait, written out. -/
theorem addressCommandsFrame : Obligations.AddressCommandsFrame := by
  unfold Obligations.AddressCommandsFrame
  intro s t u i n hexec hrun hi
  rcases hi with rfl | ⟨a, k, hi⟩
  · obtain ⟨c, rfl | rfl⟩ := scan_issued_or_waiting hexec hrun
    · exact ⟨rfl, fun _ => rfl, fun _ _ => rfl, List.prefix_rfl, memRead_congr rfl⟩
    · exact ⟨rfl, fun _ => rfl, fun _ _ => rfl, List.prefix_append _ _, memRead_congr rfl⟩
  · have hscan : i ≠ .scan := by rcases hi with rfl | rfl <;> nofun
    obtain ⟨c, rfl | rfl⟩ := start_issued_or_waiting hi hexec hrun
    · exact ⟨rfl, fun _ => rfl, fun _ _ => rfl, List.prefix_rfl, memRead_congr rfl⟩
    · refine ⟨rfl, fun h => absurd h hscan, fun b hb => ?_, List.prefix_append _ _, memRead_congr rfl⟩
      obtain rfl : k = 0#8 := by rcases hi with rfl | rfl <;> simp at hb <;> exact hb.2
      rfl

end Sys2Proof.Machine
end

section
/-! PROOFS. WRITE and WRITE_BYTES (42_bus_data.md R170, R171): the byte in flight, the slave's answer, the whole range,
and what they leave alone. -/

namespace Sys2Proof.Machine

/-- The state with a byte in flight, and the command that has sent it at its wait (20_memory.md R69). -/
def byteSent (c : Command) (b : Byte) (s : State) : State :=
  goTo c { s with
    bm := { s.bm with txmode := .polling, data := b, wif := false, inflight := .data }, trace := s.trace ++ [.tx b] }

theorem busSendData_polling {s : State} (hphase : s.bm.phase = .dataWrite) (hwif : s.bm.wif = true) (c c' : Command)
    (b : Byte) : busSendData b (goTo c (goTo c' (choosePolling s))) = .next (byteSent c b s) :=
  busSendData_of_ready (s := goTo c (goTo c' (choosePolling s))) hphase hwif b

/-! ## WRITE -/

theorem engineRun_write {s : State} (hphase : s.bm.phase = .dataWrite) (hwif : s.bm.wif = true) (b : Byte) :
    engineRun 3 (goTo (.write b .mode) s) = .next (byteSent (.write b .waitAck) b s) := by
  have hwait : engineStep (goTo (.write b .wait) (choosePolling s)) = .next (goTo (.write b .send) (choosePolling s)) :=
    congrArg _ (waitStep_of_true hwif _ _)
  have hsend : engineStep (goTo (.write b .send) (choosePolling s)) = .next (byteSent (.write b .waitAck) b s) :=
    busSendData_polling hphase hwif _ _ b
  rw [engineRun_succ (t := goTo (.write b .wait) (choosePolling s)) rfl, engineRun_succ hwait, engineRun_succ hsend]
  rfl

/-- Settles O36: three steps to the byte in flight, and two after the slave's answer. -/
theorem writeTransmitsAndReports : Obligations.WriteTransmitsAndReports := by
  unfold Obligations.WriteTransmitsAndReports
  rintro s sent b ha hwif rfl
  obtain ⟨⟨⟨hcmd, -⟩, -⟩, hphase, -⟩ := (admitWrite_eq_none s).1 ((admits_write_iff b s).1 ha)
  obtain ⟨hidle, hmoves⟩ := exec_reaches (i := .write b) (k := 3) ha (by decide) (engineRun_write hphase hwif b)
    (engineStep_of_waiting rfl)
  refine ⟨hidle, hmoves, fun a => ?_⟩
  rw [performAll_cons (perform_envData rfl a), performAll_pair, hcmd]
  simp only [List.append_assoc]
  cases a <;> rfl

/-! ## WRITE_BYTES -/

/-- WRITE_BYTES of the range that its issue in `s` has taken, at a step for the byte `i`. -/
abbrev writeBytesAt (s : State) (i : Nat) (at_ : WriteBytesStep) : Command :=
  .writeBytes s.ifc.arg0 s.ifc.arg1 (BitVec.ofNat 32 i) at_

/-- WRITE_BYTES, issued in `s`, has `i` bytes acknowledged and the next one in flight. -/
structure SendingByte (s : State) (i : Nat) (u : State) : Prop where
  cmd : u.cmd = some (writeBytesAt s i .waitAck)
  phase : u.bm.phase = .dataWrite
  txmode : u.bm.txmode = .polling
  inflight : u.bm.inflight = .data
  wif : u.bm.wif = false
  mem : u.mem = s.mem
  trace : u.trace = s.trace ++ sentTrace s s.ifc.arg0 (List.replicate i Ack.ack) ++
    [.tx (memRead s (s.ifc.arg0 + BitVec.ofNat 32 i))]

/-- One more byte sent and answered. -/
theorem sentTrace_append (s : State) (p : Word) (acks : List Ack) (a : Ack) :
    sentTrace s p (acks ++ [a]) =
      sentTrace s p acks ++ [.tx (memRead s (p + BitVec.ofNat 32 acks.length)), .slave a] := by
  induction acks generalizing p with
  | nil => simp [sentTrace]
  | cons x acks ih =>
    have haddr : p + 1#32 + BitVec.ofNat 32 acks.length = p + BitVec.ofNat 32 (x :: acks).length := by
      rw [List.length_cons, Nat.add_comm, BitVec.ofNat_add, BitVec.add_assoc]
    rw [List.cons_append, sentTrace, sentTrace, ih, haddr]
    rfl

/-- Steps 2 to 5: the loop goes on to the byte `i` and sends it where the controller is ready. -/
theorem engineRun_sendByte {s u : State} {i : Nat} (hi : i < s.ifc.arg1.toNat) (hphase : u.bm.phase = .dataWrite)
    (hwif : u.bm.wif = true) (hmem : u.mem = s.mem)
    (htrace : u.trace = s.trace ++ sentTrace s s.ifc.arg0 (List.replicate i Ack.ack)) :
    ∃ v, engineRun 4 (goTo (writeBytesAt s i .test) u) = .next v ∧
      SendingByte s i v := by
  have hne : BitVec.ofNat 32 i ≠ s.ifc.arg1 := fun heq => by
    have hval := congrArg BitVec.toNat heq
    rw [BitVec.toNat_ofNat, Nat.mod_eq_of_lt (hi.trans s.ifc.arg1.isLt)] at hval
    omega
  have htest : engineStep (goTo (writeBytesAt s i .test) u) = .next (goTo (writeBytesAt s i .mode) u) := if_neg hne
  have hmode : engineStep (goTo (writeBytesAt s i .mode) u) =
      .next (goTo (writeBytesAt s i .wait) (choosePolling u)) := rfl
  have hwait : engineStep (goTo (writeBytesAt s i .wait) (choosePolling u)) =
      .next (goTo (writeBytesAt s i .send) (choosePolling u)) :=
    congrArg _ (waitStep_of_true hwif _ _)
  have hsend : engineStep (goTo (writeBytesAt s i .send) (choosePolling u)) =
      .next (byteSent (writeBytesAt s i .waitAck) _ u) :=
    busSendData_polling hphase hwif _ _ _
  refine ⟨byteSent (writeBytesAt s i .waitAck) (memRead u (s.ifc.arg0 + BitVec.ofNat 32 i)) u, ?_,
    ⟨rfl, hphase, rfl, rfl, rfl, hmem, ?_⟩⟩
  · rw [engineRun_succ htest, engineRun_succ hmode, engineRun_succ hwait, engineRun_succ hsend]
    rfl
  · rw [← htrace, ← memRead_congr hmem]
    rfl

theorem SendingByte.stands {s u : State} {i : Nat} (h : SendingByte s i u) : engineStep u = .next u := by
  rw [engineStep, h.cmd]
  exact congrArg _ (waitStep_of_false h.wif _ u)

/-- What the slave's answer and step 6 leave: the command at step 7, with the acknowledge bit. -/
structure Answered (s : State) (i : Nat) (a : Ack) (u : State) : Prop where
  cmd : u.cmd = some (writeBytesAt s i .check)
  phase : u.bm.phase = .dataWrite
  txmode : u.bm.txmode = .polling
  wif : u.bm.wif = true
  rxack : u.bm.rxack = a
  mem : u.mem = s.mem
  trace : u.trace = s.trace ++ sentTrace s s.ifc.arg0 (List.replicate i Ack.ack ++ [a])

theorem SendingByte.answer {s u : State} {i : Nat} (h : SendingByte s i u) (a : Ack) :
    ∃ v, (∀ ms, performAll (.env (.data a) :: .engine :: ms) u = performAll ms v) ∧ Answered s i a v := by
  have hanswer := perform_envData h.inflight a
  have hwait : perform .engine { u with
      bm := { u.bm with rxack := a, inflight := .none, wif := true }, trace := u.trace ++ [.slave a] } =
      .next (goTo (writeBytesAt s i .check) { u with
        bm := { u.bm with rxack := a, inflight := .none, wif := true }, trace := u.trace ++ [.slave a] }) := by
    rw [perform, engineStep, h.cmd]
    rfl
  refine ⟨_, fun ms => (performAll_cons hanswer _).trans (performAll_cons hwait ms),
    ⟨rfl, h.phase, h.txmode, rfl, rfl, h.mem, ?_⟩⟩
  rw [goTo_trace, h.trace, sentTrace_append, List.length_replicate]
  simp

/-- Step 7 on a NAK: the command completes with result 0. -/
theorem Answered.nak {s u : State} {i : Nat} (h : Answered s i .nak u) :
    perform .engine u = .next (complete (boolResult false) u) := by
  rw [perform, engineStep, h.cmd]
  exact if_pos h.rxack

/-- Steps 7 and 8 on an ACK: the loop goes on with the next byte. -/
theorem Answered.ack {s u : State} {i : Nat} (h : Answered s i .ack u) (ms : List Move) :
    performAll (.engine :: .engine :: ms) u =
      performAll ms (goTo (writeBytesAt s (i + 1) .test) u) := by
  have hcheck : perform .engine u =
      .next (goTo (writeBytesAt s i .next) u) := by
    rw [perform, engineStep, h.cmd]
    exact if_neg (by simp [h.rxack])
  rw [performAll_cons hcheck, writeBytesAt, writeBytesAt, BitVec.ofNat_add]
  rfl

/-- The trace of an acknowledged byte, as the loop counts it. -/
theorem Answered.trace_succ {s u : State} {i : Nat} (h : Answered s i .ack u) :
    u.trace = s.trace ++ sentTrace s s.ifc.arg0 (List.replicate (i + 1) Ack.ack) := by
  rw [h.trace, List.replicate_succ']

/-- An acknowledged byte that is not the last one is followed by the next. -/
theorem SendingByte.acked {s u : State} {i : Nat} (h : SendingByte s i u) (hi : i + 1 < s.ifc.arg1.toNat) :
    ∃ v, performAll (ackedByteMoves 1) u = .next v ∧ SendingByte s (i + 1) v := by
  obtain ⟨w, hw, hans⟩ := h.answer .ack
  obtain ⟨v, hv, hsend⟩ := engineRun_sendByte hi hans.phase hans.wif hans.mem hans.trace_succ
  exact ⟨v, (hw _).trans ((hans.ack _).trans ((performAll_engines 4 _).trans hv)), hsend⟩

theorem SendingByte.acked_all {s u : State} {i n : Nat} (h : SendingByte s i u) (hn : i + n < s.ifc.arg1.toNat) :
    ∃ v, performAll (ackedByteMoves n) u = .next v ∧ SendingByte s (i + n) v := by
  induction n generalizing i u with
  | zero => exact ⟨u, rfl, h⟩
  | succ n ih =>
    obtain ⟨w, hw, hnext⟩ := h.acked (by omega)
    obtain ⟨v, hv, hend⟩ := ih hnext (by omega)
    rw [Nat.add_right_comm i 1 n] at hend
    have hmoves : ackedByteMoves (n + 1) = ackedByteMoves 1 ++ ackedByteMoves n := by
      simp [ackedByteMoves, List.replicate_succ]
    exact ⟨v, by rw [hmoves, performAll_append, hw, andThen_next, hv], hend⟩

/-- The state that the engine's moves reach from where `exec` has gone. -/
theorem performAll_after_exec {i : Instr} {s t w : State} {k : Nat} (hexec : exec i s = .next t)
    (hk : k ≤ longestStretch) (hrun : engineRun k (goTo (commandOf i s) s) = .next w)
    (hw : engineStep w = .next w) : performAll (List.replicate k .engine) t = .next w := by
  obtain ⟨-, t', hexec', hreach⟩ := exec_reaches (exec_eq_next hexec).1 hk hrun hw
  cases hexec.symm.trans hexec'
  exact hreach

/-- WRITE_BYTES of an empty range (42_bus_data.md R171). -/
theorem writeBytes_empty {s t : State} (hexec : exec .writeBytes s = .next t) (hlen : s.ifc.arg1 = 0#32) :
    performAll [.engine, .engine] t = .next { s with ifc := { s.ifc with result := 1#32 } } := by
  have hcmd := admits_no_command (exec_eq_next hexec).1
  have htest : engineStep (goTo (.writeBytes s.ifc.arg0 s.ifc.arg1 0#32 .test) s) =
      .next (complete (boolResult true) (goTo (.writeBytes s.ifc.arg0 s.ifc.arg1 0#32 .test) s)) := if_pos hlen.symm
  have hrun : engineRun 2 (goTo (commandOf .writeBytes s) s) =
      .next (complete (boolResult true) (goTo (.writeBytes s.ifc.arg0 s.ifc.arg1 0#32 .test) s)) := by
    rw [engineRun_succ (t := goTo (.writeBytes s.ifc.arg0 s.ifc.arg1 0#32 .test) s) rfl, engineRun_succ htest]
    rfl
  have hreach := performAll_after_exec hexec (by decide) hrun (engineStep_of_no_command rfl)
  rw [hcmd]
  exact hreach

/-- WRITE_BYTES from its issue: the first `n` bytes acknowledged, the next one in flight. -/
theorem writeBytes_sending {s t : State} {n : Nat} (hexec : exec .writeBytes s = .next t) (hwif : s.bm.wif = true)
    (hn : n < s.ifc.arg1.toNat) :
    ∃ v, (∀ ms, performAll (writeBytesMoves n ms) t = performAll ms v) ∧ SendingByte s n v := by
  obtain ⟨hwrite, -⟩ := (admitWriteBytes_eq_none s).1 ((admits_writeBytes_iff s).1 (exec_eq_next hexec).1)
  obtain ⟨-, hphase, -⟩ := (admitWrite_eq_none s).1 hwrite
  obtain ⟨w, hw, hfirst⟩ :=
    engineRun_sendByte (s := s) (u := s) (i := 0) (by omega) hphase hwif rfl (by simp [sentTrace])
  have hrun : engineRun 5 (goTo (commandOf .writeBytes s) s) = .next w :=
    (engineRun_succ (t := goTo (.writeBytes s.ifc.arg0 s.ifc.arg1 0#32 .test) s) rfl 4).trans hw
  have hreach := performAll_after_exec hexec (by decide) hrun hfirst.stands
  obtain ⟨v, hv, hsend⟩ := hfirst.acked_all (n := n) (by omega)
  rw [Nat.zero_add] at hsend
  refine ⟨v, fun ms => ?_, hsend⟩
  rw [writeBytesMoves, List.append_assoc, performAll_append, hreach, andThen_next, performAll_append, hv, andThen_next]

/-- Settles O37: `writeBytes_sending` up to the byte `n`, and the two ways its answer ends the command. -/
theorem writeBytesStopsAtTheFirstNak : Obligations.WriteBytesStopsAtTheFirstNak := by
  unfold Obligations.WriteBytesStopsAtTheFirstNak
  intro s n ha hwif
  obtain ⟨t, hexec⟩ := exec_next_of_admits ha
  refine ⟨t, hexec, writeBytes_empty hexec, fun hn => ?_⟩
  obtain ⟨v, hv, hsend⟩ := writeBytes_sending hexec hwif hn
  refine ⟨?nak, fun hlast => ?ack⟩
  case nak =>
    obtain ⟨w, hw, hans⟩ := hsend.answer .nak
    exact ⟨_, (hv _).trans ((hw _).trans (performAll_cons hans.nak [])), rfl, rfl, hans.phase, hans.wif, hans.txmode,
      hans.trace⟩
  case ack =>
    obtain ⟨w, hw, hans⟩ := hsend.answer .ack
    have hdone : BitVec.ofNat 32 (n + 1) = s.ifc.arg1 := by rw [hlast, BitVec.ofNat_toNat, BitVec.setWidth_eq]
    have htest : perform .engine (goTo (writeBytesAt s (n + 1) .test) w) =
        .next (complete (boolResult true) (goTo _ w)) := if_pos hdone
    exact ⟨_, (hv _).trans ((hw _).trans ((hans.ack _).trans (performAll_cons htest []))), rfl, rfl, hans.phase,
      hans.wif, hans.txmode, hans.trace_succ⟩

/-! ## Frames of the data commands -/

/-- A relation that every numbered step of a command keeps holds from the state of its issue on. -/
theorem exec_engines_induct {i : Instr} {R : State → State → Prop} (hrefl : ∀ a, R a a)
    (htrans : ∀ {a b c}, R a b → R b c → R a c) (hgo : ∀ c a, R a (goTo c a))
    (hstep : ∀ {a b c}, a.cmd = some c → c.mnemonic = mnemonicOf i → engineStep a = .next b → R a b)
    {s t u : State} {n : Nat} (hexec : exec i s = .next t) (hrun : performAll (List.replicate n .engine) t = .next u) :
    R s u := by
  obtain ⟨m, hm⟩ := exec_then_engines hexec hrun
  have hall := engineRun_induct (P := fun v => CommandIs (mnemonicOf i) v.cmd ∧ R s v) (fun {a b} h hab => ?_)
    ⟨.some (commandOf_mnemonic i s), hgo _ s⟩ hm
  · exact hall.2
  · obtain ⟨his, hR⟩ := h
    refine ⟨engineStep_is his hab, htrans hR ?_⟩
    cases hcmd : a.cmd with
    | none =>
      cases (engineStep_of_no_command hcmd).symm.trans hab
      exact hrefl a
    | some c => exact hstep hcmd (his c hcmd) hab

/-- What the numbered steps of WRITE and WRITE_BYTES write (42_bus_data.md R170, R171 "State written"). -/
def WriteFrame (s u : State) : Prop :=
  u = { s with
    bm := { s.bm with txmode := u.bm.txmode, data := u.bm.data, wif := u.bm.wif, inflight := u.bm.inflight }
    ifc := { s.ifc with result := u.ifc.result }
    trace := u.trace
    cmd := u.cmd } ∧ s.trace <+: u.trace

namespace WriteFrame

theorem refl (s : State) : WriteFrame s s := ⟨rfl, List.prefix_rfl⟩

theorem trans {s t u : State} (h : WriteFrame s t) (k : WriteFrame t u) : WriteFrame s u := by
  obtain ⟨h, hp⟩ := h
  obtain ⟨k, kp⟩ := k
  refine ⟨?_, hp.trans kp⟩
  rw [k, h]

theorem goTo (c : Command) (s : State) : WriteFrame s (goTo c s) := ⟨rfl, List.prefix_rfl⟩

theorem complete (v : Word) (s : State) : WriteFrame s (complete v s) := ⟨rfl, List.prefix_rfl⟩

theorem choosePolling (c : Command) (s : State) : WriteFrame s (Machine.goTo c (choosePolling s)) :=
  ⟨rfl, List.prefix_rfl⟩

theorem waitStep (c : Bool) (go : Command) (s : State) : WriteFrame s (waitStep c go s) := by
  cases c
  · exact refl s
  · exact goTo go s

theorem send {b : Byte} {c : Command} {s t : State} (h : busSendData b (Machine.goTo c s) = .next t) :
    WriteFrame s t := by
  obtain ⟨-, rfl⟩ := busSendData_eq_next h
  exact ⟨rfl, List.prefix_append _ _⟩

theorem engineStep {s t : State} {c : Command} (hcmd : s.cmd = some c)
    (hc : c.mnemonic = "WRITE" ∨ c.mnemonic = "WRITE_BYTES") (h : engineStep s = .next t) : WriteFrame s t := by
  rw [Machine.engineStep, hcmd] at h
  cases c
  case write b at_ =>
    cases at_ <;> simp only [stepWrite] at h
    case mode => cases h; exact choosePolling _ s
    case wait | waitAck => cases h; exact waitStep _ _ s
    case send => exact send h
    case form => cases h; exact complete _ s
  case writeBytes p l i at_ =>
    cases at_ <;> simp only [stepWriteBytes] at h
    case init | next => cases h; exact goTo _ s
    case test | check =>
      split at h <;> cases h
      · exact complete _ s
      · exact goTo _ s
    case mode => cases h; exact choosePolling _ s
    case wait | waitAck => cases h; exact waitStep _ _ s
    case send => exact send h
  all_goals simp [Command.mnemonic] at hc

end WriteFrame

/-- WRITE up to its wait for the slave, where it has not formed its result. -/
def WriteOpen (b : Byte) (s u : State) : Prop :=
  u.ifc = s.ifc ∧ (u.cmd = some (.write b .mode) ∨ u.cmd = some (.write b .wait) ∨ u.cmd = some (.write b .send) ∨
    (u.cmd = some (.write b .waitAck) ∧ u.bm.wif = false))

theorem WriteOpen.step {b : Byte} {s u v : State} (h : WriteOpen b s u) (hstep : engineStep u = .next v) :
    WriteOpen b s v := by
  obtain ⟨hifc, hcmd⟩ := h
  rcases hcmd with hcmd | hcmd | hcmd | ⟨hcmd, hwif⟩ <;> rw [engineStep, hcmd] at hstep
  · cases hstep
    exact ⟨hifc, .inr (.inl rfl)⟩
  · cases hstep
    cases hwif : u.bm.wif
    · exact ⟨hifc, .inr (.inl hcmd)⟩
    · exact ⟨hifc, .inr (.inr (.inl rfl))⟩
  · obtain ⟨-, rfl⟩ := busSendData_eq_next hstep
    exact ⟨hifc, .inr (.inr (.inr ⟨rfl, rfl⟩))⟩
  · cases (congrArg Host.Outcome.next (waitStep_of_false hwif _ u)).symm.trans hstep
    exact ⟨hifc, .inr (.inr (.inr ⟨hcmd, hwif⟩))⟩

/-- Settles O38: every numbered step has `WriteFrame`, and WRITE stands at its wait before it forms a result. -/
theorem writeCommandsFrame : Obligations.WriteCommandsFrame := by
  unfold Obligations.WriteCommandsFrame
  intro s t u i n hexec hrun hi
  have hname : mnemonicOf i = "WRITE" ∨ mnemonicOf i = "WRITE_BYTES" := by
    rcases hi with rfl | ⟨b, rfl⟩
    · exact .inr rfl
    · exact .inl rfl
  obtain ⟨hframe, hprefix⟩ : WriteFrame s u :=
    exec_engines_induct WriteFrame.refl WriteFrame.trans WriteFrame.goTo
      (fun hcmd hc hstep => WriteFrame.engineStep hcmd (hc ▸ hname) hstep) hexec hrun
  refine ⟨hframe, fun hne => ?_, hprefix, memRead_congr (by rw [hframe])⟩
  obtain ⟨b, rfl⟩ := hi.resolve_left hne
  obtain ⟨m, hm⟩ := exec_then_engines hexec hrun
  exact (engineRun_induct (P := WriteOpen b s) (s := goTo (.write b .mode) s) WriteOpen.step ⟨rfl, .inl rfl⟩ hm).1

end Sys2Proof.Machine
end

section
/-! PROOFS. READ and READ_LAST (42_bus_data.md R172 to R174): the byte taken and its acknowledge bit, the wait for a
byte, a whole read, and what they leave alone. -/

namespace Sys2Proof.Machine

/-! ## The byte taken -/

/-- What READ and READ_LAST leave when they complete: the counter consumed by one, and the byte acknowledged with ACK
and a further reception while the counter is not 0 then, and with NAK when it is. -/
def readTaken (s : State) : State :=
  { s with
    bm := { s.bm with
      rdcnt := countDown s.bm.rdcnt
      ackact := if countDown s.bm.rdcnt = 0#8 then .nak else .ack
      rif := false
      inflight := if countDown s.bm.rdcnt = 0#8 then .none else .recv }
    ifc := { s.ifc with result := byteResult s.bm.data }
    trace := s.trace ++ [.master (if countDown s.bm.rdcnt = 0#8 then .nak else .ack)]
    cmd := none }

theorem countDown_eq_zero_iff (n : Byte) : countDown n = 0#8 ↔ n.toNat ≤ 1 := by
  unfold countDown
  split <;> constructor <;> intro h <;> bv_omega

theorem countDown_of_one_lt {n : Byte} (h : 1 < n.toNat) : countDown n = n - 1#8 := by
  unfold countDown
  rw [if_neg]
  rintro rfl
  simp at h

theorem busNak_of_ready {s : State} (hphase : s.bm.phase = .dataRead) (hrif : s.bm.rif = true) :
    busNak s = .next { s with
      bm := { s.bm with ackact := .nak, rif := false, inflight := .none }, trace := s.trace ++ [.master .nak] } :=
  if_pos ⟨hphase, hrif⟩

theorem busAckAndReceive_of_ready {s : State} (hphase : s.bm.phase = .dataRead) (hrif : s.bm.rif = true) :
    busAckAndReceive s = .next { s with
      bm := { s.bm with ackact := .ack, rif := false, inflight := .recv }, trace := s.trace ++ [.master .ack] } :=
  if_pos ⟨hphase, hrif⟩

/-- READ step 4, for either value of the counter. -/
theorem acknowledgeByte_of_ready {s : State} (hphase : s.bm.phase = .dataRead) (hrif : s.bm.rif = true) :
    acknowledgeByte s = .next { s with
      bm := { s.bm with
        ackact := if s.bm.rdcnt = 0#8 then .nak else .ack
        rif := false
        inflight := if s.bm.rdcnt = 0#8 then .none else .recv }
      trace := s.trace ++ [.master (if s.bm.rdcnt = 0#8 then .nak else .ack)] } := by
  rw [acknowledgeByte_eq, busNak_of_ready hphase hrif, busAckAndReceive_of_ready hphase hrif]
  split <;> rfl

/-- The five steps of READ where a byte has been received (R172). -/
theorem engineRun_read {s : State} (hphase : s.bm.phase = .dataRead) (hrif : s.bm.rif = true) :
    engineRun 5 (goTo (.read .wait) s) = .next (readTaken s) := by
  have hwait : engineStep (goTo (.read .wait) s) = .next (goTo (.read .count) s) :=
    congrArg _ (waitStep_of_true hrif _ _)
  have hcount : engineStep (goTo (.read .count) s) = .next (goTo (.read .take) (consumeCount s)) := rfl
  have htake : engineStep (goTo (.read .take) (consumeCount s)) =
      .next (goTo (.read (.ack s.bm.data)) (consumeCount s)) := rfl
  have hack : engineStep (goTo (.read (.ack s.bm.data)) (consumeCount s)) = .next _ :=
    acknowledgeByte_of_ready (s := goTo (.read (.form s.bm.data)) (consumeCount s)) hphase hrif
  rw [engineRun_succ hwait, engineRun_succ hcount, engineRun_succ htake, engineRun_succ hack]
  rfl

/-- The steps 2 to 6 of READ_LAST where a byte has been received: its counter is 0 (R173). -/
theorem engineRun_readLast {s : State} (hphase : s.bm.phase = .dataRead) (hrif : s.bm.rif = true)
    (hcount : s.bm.rdcnt = 0#8) : engineRun 5 (goTo (.readLast .wait) s) = .next (readTaken s) := by
  have hwait : engineStep (goTo (.readLast .wait) s) = .next (goTo (.readLast .count) s) :=
    congrArg _ (waitStep_of_true hrif _ _)
  have hstep : engineStep (goTo (.readLast .count) s) = .next (goTo (.readLast .take) (consumeCount s)) := rfl
  have htake : engineStep (goTo (.readLast .take) (consumeCount s)) =
      .next (goTo (.readLast (.nak s.bm.data)) (consumeCount s)) := rfl
  have hnak : engineStep (goTo (.readLast (.nak s.bm.data)) (consumeCount s)) = .next _ :=
    busNak_of_ready (s := goTo (.readLast (.form s.bm.data)) (consumeCount s)) hphase hrif
  have hdown : countDown s.bm.rdcnt = 0#8 := by rw [hcount]; rfl
  rw [engineRun_succ hwait, engineRun_succ hstep, engineRun_succ htake, engineRun_succ hnak]
  simp only [readTaken, if_pos hdown]
  rfl

/-- READ_LAST from its first step, with the counter zeroed. -/
def zeroCount (s : State) : State := { s with bm := { s.bm with rdcnt := 0#8 } }

/-- The state a completed READ or READ_LAST leaves stands. -/
theorem readTaken_stands (s : State) : engineStep (readTaken s) = .next (readTaken s) := engineStep_of_no_command rfl

theorem admits_readLast_iff_read (s : State) : admits .readLast s = true ↔ admits .read s = true := by
  rw [admits_readLast_iff, admits_read_iff]

/-- READ where a byte has been received: by itself and by the engine's moves. -/
theorem exec_read_taken {s : State} (ha : admits .read s = true) (hrif : s.bm.rif = true) :
    (s.schedule = [] → exec .read s = .next (readTaken s)) ∧
      ∃ t, exec .read s = .next t ∧ performAll (List.replicate 5 .engine) t = .next (readTaken s) :=
  exec_reaches ha (by decide) (engineRun_read (admits_dataRead ha (.inl rfl)) hrif) (readTaken_stands s)

theorem exec_readLast_taken {s : State} (ha : admits .readLast s = true) (hrif : s.bm.rif = true) :
    (s.schedule = [] → exec .readLast s = .next (readTaken (zeroCount s))) ∧
      ∃ t, exec .readLast s = .next t ∧
        performAll (List.replicate 6 .engine) t = .next (readTaken (zeroCount s)) := by
  refine exec_reaches ha (by decide) ?_ (readTaken_stands _)
  rw [engineRun_succ (t := goTo (.readLast .wait) (zeroCount s)) rfl]
  exact engineRun_readLast (s := zeroCount s) (admits_dataRead ha (.inr rfl)) hrif rfl

/-- Settles O39: the state READ leaves, by whether the counter reaches 0. -/
theorem readTakesTheByteAndAcknowledges : Obligations.ReadTakesTheByteAndAcknowledges := by
  unfold Obligations.ReadTakesTheByteAndAcknowledges
  rintro s done ha hrif rfl
  have hcmd := admits_no_command ha
  have htaken := exec_read_taken ha hrif
  rw [readTaken] at htaken
  split
  case isTrue hle =>
    rw [(countDown_eq_zero_iff _).2 hle, ← hcmd] at htaken
    exact htaken
  case isFalse hgt =>
    have hne : ¬countDown s.bm.rdcnt = 0#8 := mt (countDown_eq_zero_iff _).1 hgt
    simp only [if_neg hne] at htaken
    rw [countDown_of_one_lt (not_le.1 hgt), ← hcmd] at htaken
    exact htaken

/-- Settles O41: READ_LAST is a READ with the counter zeroed before it. -/
theorem readLastAlwaysSendsNak : Obligations.ReadLastAlwaysSendsNak := by
  unfold Obligations.ReadLastAlwaysSendsNak
  rintro s done ha hrif rfl
  have hcmd := admits_no_command ha
  have htaken := exec_readLast_taken ha hrif
  rw [readTaken, ← hcmd] at htaken
  exact htaken

/-! ## The wait for a byte -/

/-- The byte that arrives for a command at its wait. -/
def received (b : Byte) (s : State) : State :=
  { s with bm := { s.bm with data := b, inflight := .none, rif := true }, trace := s.trace ++ [.rx b] }

theorem perform_recv {s : State} (h : s.bm.inflight = .recv) (b : Byte) :
    perform (.env (.recv b)) s = .next (received b s) := perform_envRecv h b

/-- What the acknowledge bit after an arrival is, by the counter before it. -/
theorem readTaken_received_trace (b : Byte) (s : State) :
    (readTaken (received b s)).trace =
      s.trace ++ [.rx b, .master (if 1 < s.bm.rdcnt.toNat then .ack else .nak)] := by
  have hack : (if countDown s.bm.rdcnt = 0#8 then Ack.nak else .ack) =
      if 1 < s.bm.rdcnt.toNat then .ack else .nak := by
    simp only [countDown_eq_zero_iff, ← not_lt, ite_not]
  rw [← hack]
  exact List.append_assoc ..

theorem read_stands {s : State} (hrif : s.bm.rif = false) :
    engineStep (goTo (.read .wait) s) = .next (goTo (.read .wait) s) :=
  congrArg _ (waitStep_of_false hrif _ _)

theorem readLast_stands {s : State} (hrif : s.bm.rif = false) :
    engineStep (goTo (.readLast .wait) s) = .next (goTo (.readLast .wait) s) :=
  congrArg _ (waitStep_of_false hrif _ _)

/-- READ at its wait completes when the byte arrives. -/
theorem read_arrives {s : State} (hphase : s.bm.phase = .dataRead) (hin : s.bm.inflight = .recv) (b : Byte) :
    performAll (.env (.recv b) :: List.replicate 5 .engine) (goTo (.read .wait) s) =
      .next (readTaken (received b s)) := by
  rw [performAll_cons (perform_recv (s := goTo (.read .wait) s) hin b), performAll_engines]
  exact engineRun_read (s := received b s) hphase rfl

theorem readLast_arrives {s : State} (hphase : s.bm.phase = .dataRead) (hin : s.bm.inflight = .recv)
    (hcount : s.bm.rdcnt = 0#8) (b : Byte) :
    performAll (.env (.recv b) :: List.replicate 5 .engine) (goTo (.readLast .wait) s) =
      .next (readTaken (received b s)) := by
  rw [performAll_cons (perform_recv (s := goTo (.readLast .wait) s) hin b), performAll_engines]
  exact engineRun_readLast (s := received b s) hphase rfl hcount

/-- Settles O40: both stand at their wait, and complete as `readTaken` says when the byte arrives. -/
theorem readWaitsForTheByte : Obligations.ReadWaitsForTheByte := by
  unfold Obligations.ReadWaitsForTheByte
  intro s b n ha hrif
  have hphase := admits_dataRead ha (.inl rfl)
  have haLast := (admits_readLast_iff_read s).2 ha
  refine ⟨?read, ?readLast⟩
  case read =>
    obtain ⟨-, t, hexec, hreach⟩ := exec_reaches (k := 0) ha (by decide) rfl (read_stands hrif)
    cases hreach
    refine ⟨_, hexec, rfl, ?_, fun hin => ⟨_, read_arrives hphase hin b, rfl, rfl, rfl, readTaken_received_trace b s⟩⟩
    exact (performAll_engines ..).trans (engineRun_of_stuck (read_stands hrif) n)
  case readLast =>
    have hstands := readLast_stands (s := zeroCount s) hrif
    obtain ⟨hidle, t, hexec, hreach⟩ := exec_reaches (i := .readLast) (k := 1) haLast (by decide) rfl hstands
    refine ⟨t, _, hexec, hreach, fun hs => ?_, rfl, ?_, fun hin =>
      ⟨_, readLast_arrives (s := zeroCount s) hphase hin rfl b, rfl, rfl, rfl,
        readTaken_received_trace b (zeroCount s)⟩⟩
    · cases hexec.symm.trans (hidle hs)
      rfl
    · exact (performAll_engines ..).trans (engineRun_of_stuck hstands n)

/-! ## A whole read -/

/-- One call of READ with a byte received, from the host's write of its word on. -/
theorem issueRead_taken {s : State} (ha : admits .read s = true) (hrif : s.bm.rif = true) :
    performAll issueRead s = .next (readTaken s) := by
  obtain ⟨-, t, hexec, hrun⟩ := exec_read_taken ha hrif
  have hword : perform (.host (.command (encode .read))) s = .next t :=
    (hostCommand_of_decode (decodeReadsBackEveryCommand .read) s).trans hexec
  exact (performAll_cons hword _).trans hrun

/-- After a READ that is not the last, a byte that arrives can be read in turn. -/
theorem admits_read_after {s : State} (ha : admits .read s = true) (b : Byte) :
    admits .read (received b (readTaken s)) = true := by
  obtain ⟨⟨⟨-, hpact⟩, hen⟩, hphase⟩ := (admitRead_eq_none s).1 ((admits_read_iff s).1 ha)
  exact (admits_read_iff _).2 ((admitRead_eq_none _).2 ⟨⟨⟨rfl, hpact⟩, hen⟩, hphase⟩)

theorem readMoves_cons (b : Byte) (bs : List Byte) :
    readMoves (b :: bs) = issueRead ++ (.env (.recv b) :: readMoves bs) := by
  rw [readMoves, List.flatMap_cons, List.append_assoc]
  rfl

/-- Settles O42: by induction on the bytes that arrive, with one call of READ before each. -/
theorem readsAcknowledgeAllButTheLast : Obligations.ReadsAcknowledgeAllButTheLast := by
  unfold Obligations.ReadsAcknowledgeAllButTheLast
  intro s bs ha hrif hcount
  induction bs generalizing s with
  | nil =>
    have hzero : countDown s.bm.rdcnt = 0#8 := (countDown_eq_zero_iff _).2 hcount.le
    refine ⟨readTaken s, issueRead_taken ha hrif, rfl, hzero, rfl, if_pos hzero, rfl, ?_⟩
    simp [readTaken, hzero]
  | cons b bs ih =>
    rw [List.length_cons] at hcount
    have hdown : countDown s.bm.rdcnt = s.bm.rdcnt - 1#8 := countDown_of_one_lt (by omega)
    have hne : ¬countDown s.bm.rdcnt = 0#8 := fun h => by
      have := (countDown_eq_zero_iff _).1 h
      omega
    have hleft : (received b (readTaken s)).bm.rdcnt.toNat = bs.length + 1 := by
      show (countDown s.bm.rdcnt).toNat = bs.length + 1
      rw [hdown]
      bv_omega
    obtain ⟨u, hrun, hcmd, hzero, hrif', hin, hresult, htrace⟩ := ih _ (admits_read_after ha b) rfl hleft
    refine ⟨u, ?_, hcmd, hzero, hrif', hin, ?_, ?_⟩
    · rw [readMoves_cons, List.append_assoc, performAll_append, issueRead_taken ha hrif, andThen_next, List.cons_append,
        performAll_cons (perform_recv (if_neg hne) b), hrun]
    · rw [hresult]
      cases bs <;> rfl
    · rw [htrace]
      simp [received, readTaken, hne]

/-! ## The frame -/

/-- What the numbered steps of READ and READ_LAST write (42_bus_data.md R172, R173 "State written"). -/
def ReadFrame (s u : State) : Prop :=
  u = { s with
    bm := { s.bm with rdcnt := u.bm.rdcnt, ackact := u.bm.ackact, rif := u.bm.rif, inflight := u.bm.inflight }
    ifc := { s.ifc with result := u.ifc.result }
    trace := u.trace
    cmd := u.cmd } ∧ s.trace <+: u.trace

namespace ReadFrame

theorem refl (s : State) : ReadFrame s s := ⟨rfl, List.prefix_rfl⟩

theorem trans {s t u : State} (h : ReadFrame s t) (k : ReadFrame t u) : ReadFrame s u := by
  obtain ⟨h, hp⟩ := h
  obtain ⟨k, kp⟩ := k
  refine ⟨?_, hp.trans kp⟩
  rw [k, h]

theorem goTo (c : Command) (s : State) : ReadFrame s (goTo c s) := ⟨rfl, List.prefix_rfl⟩

theorem complete (v : Word) (s : State) : ReadFrame s (complete v s) := ⟨rfl, List.prefix_rfl⟩

theorem count (c : Command) (n : Byte) (s : State) :
    ReadFrame s (Machine.goTo c { s with bm := { s.bm with rdcnt := n } }) := ⟨rfl, List.prefix_rfl⟩

theorem waitStep (c : Bool) (go : Command) (s : State) : ReadFrame s (waitStep c go s) := by
  cases c
  · exact refl s
  · exact goTo go s

theorem nak {c : Command} {s t : State} (h : busNak (Machine.goTo c s) = .next t) : ReadFrame s t := by
  obtain ⟨-, rfl⟩ := busNak_eq_next h
  exact ⟨rfl, List.prefix_append _ _⟩

theorem ack {c : Command} {s t : State} (h : busAckAndReceive (Machine.goTo c s) = .next t) : ReadFrame s t := by
  obtain ⟨-, rfl⟩ := busAckAndReceive_eq_next h
  exact ⟨rfl, List.prefix_append _ _⟩

theorem engineStep {s t : State} {c : Command} (hcmd : s.cmd = some c)
    (hc : c.mnemonic = "READ" ∨ c.mnemonic = "READ_LAST") (h : engineStep s = .next t) : ReadFrame s t := by
  rw [Machine.engineStep, hcmd] at h
  cases c
  case read at_ =>
    cases at_ <;> simp only [stepRead] at h
    case wait => cases h; exact waitStep _ _ s
    case count => cases h; exact count _ _ s
    case take => cases h; exact goTo _ s
    case ack v =>
      rw [acknowledgeByte_eq] at h
      split at h
      · exact nak h
      · exact ack h
    case form => cases h; exact complete _ s
  case readLast at_ =>
    cases at_ <;> simp only [stepReadLast] at h
    case zero | count => cases h; exact count _ _ s
    case wait => cases h; exact waitStep _ _ s
    case take => cases h; exact goTo _ s
    case nak v => exact nak h
    case form => cases h; exact complete _ s
  all_goals simp [Command.mnemonic] at hc

end ReadFrame

/-- Settles O43: every numbered step of the two commands has `ReadFrame`. -/
theorem readCommandsFrame : Obligations.ReadCommandsFrame := by
  unfold Obligations.ReadCommandsFrame
  intro s t u i n hexec hrun hi
  have hname : mnemonicOf i = "READ" ∨ mnemonicOf i = "READ_LAST" := hi.imp (congrArg mnemonicOf) (congrArg mnemonicOf)
  obtain ⟨hframe, hprefix⟩ : ReadFrame s u :=
    exec_engines_induct ReadFrame.refl ReadFrame.trans ReadFrame.goTo
      (fun hcmd hc hstep => ReadFrame.engineStep hcmd (hc ▸ hname) hstep) hexec hrun
  exact ⟨hframe, hprefix, memRead_congr (by rw [hframe])⟩

end Sys2Proof.Machine
end
